-- ==== Sys2Proof/Word.lean ====
section
/-! DEFINITION. The word types of the RTE block (spec/00_scope.md R9: every number is an unsigned
integer of a stated width; nothing is ever sign-extended). -/

namespace Sys2Proof

/-- One u8 of a byte string (R9). -/
abbrev Byte := BitVec 8

/-- A u16: the flags word and the window field of the header, `CFG_MPS`, `CFG_WIN` (R9, R20, R90). -/
abbrev Half := BitVec 16

/-- A u32: the host bus word, the wire's sequence and acknowledgement numbers, offsets, the timer. -/
abbrev Word := BitVec 32

/-- The container of a datagram address tag. A tag has `ADDR_W` ≤ 64 bits (R6, R32); the bits of
the container at and above `ADDR_W` are 0 in every tag. -/
abbrev Addr := BitVec 64

end Sys2Proof
end

