-- ==== Sys2Proof/Config.lean ====
section
/-! DEFINITION. What an implementation fixes: the parameters of spec/00_scope.md R6, and the free
values of the two byte memories whose power-on contents the spec leaves unspecified. -/

namespace Sys2Proof

/-- The SR receiver's policy for `s > expected_offset`, parameter `SR_OOO_POLICY` (R6, D17). -/
inductive OooPolicy where
  | buffer
  | discard
deriving DecidableEq, Repr

/-- The implementation parameters of R6. They stand in the state as one field that no event writes,
so a statement about every state holds for every choice of parameters (log entry 1). -/
structure Params where
  /-- `TX_CAP`: bytes of TXMEM. -/
  txCap : Nat
  /-- `RX_CAP`: bytes the reassembly buffer and DELIV can hold. -/
  rxCap : Nat
  /-- `MPS_MAX`: the largest configurable max payload size. -/
  mpsMax : Nat
  /-- `WMAX`: the largest configurable window. -/
  wMax : Nat
  /-- `OOO_SLOTS`: entries of the out-of-order table. -/
  oooSlots : Nat
  /-- `ADDR_W`: width in bits of an address tag. -/
  addrW : Nat
  /-- `SR_OOO_POLICY`. -/
  oooPolicy : OooPolicy
deriving DecidableEq, Repr

namespace Params

/-- `DGRAM_MAX = 12 + MPS_MAX`, the largest datagram RTE accepts (R6). -/
abbrev dgramMax (P : Params) : Nat := 12 + P.mpsMax

/-- The constraint column of R6's parameter table. -/
abbrev Legal (P : Params) : Prop :=
  1 ≤ P.txCap ∧ P.txCap ≤ 2 ^ 32 - 1 ∧ 1 ≤ P.rxCap ∧ P.rxCap ≤ 2 ^ 32 - 1 ∧
  1 ≤ P.mpsMax ∧ P.mpsMax ≤ 65523 ∧ 1 ≤ P.wMax ∧ P.wMax ≤ 65535 ∧
  P.oooSlots ≤ 65535 ∧ 1 ≤ P.addrW ∧ P.addrW ≤ 64

/-- The suggested (not normative) values of R6, taken for the reset state (log entry 1). -/
def suggested : Params where
  txCap := 65536
  rxCap := 65536
  mpsMax := 1460
  wMax := 64
  oooSlots := 64
  addrW := 48
  oooPolicy := .buffer

end Params

namespace Config

/-- FREE VALUE. The byte that TXMEM holds at an address the host has not written: the instance, the
number of its resets so far and the address select it (R37, D49: a draw per byte, any u8). Nothing in
Lean can evaluate it. DESIGN CHOICE (log entry 5): one draw stays one byte, so two states of one
instance after the same reset hold the same unwritten bytes, while two instances of a `Link`, being
numbered apart, share none. -/
opaque txMemDraw : Nat → Nat → Nat → Byte

/-- FREE VALUE. The byte that DELIV holds at an address no delivery has written, selected in the same
way (R43: unspecified, and unobservable in every state a run reaches; DESIGN CHOICE, log entry 5). -/
opaque delivDraw : Nat → Nat → Nat → Byte

end Config

end Sys2Proof
end

