-- ==== Sys2Proof/Syntax.lean ====
section
/-! DEFINITION. The syntax of what RTE decodes: host command words and wire packets
(spec/30_encoding.md), one constructor of `Instr` for each row of spec/opcode_table.json. -/

namespace Sys2Proof

/-- The packet header record of spec/40_codec.md R110. -/
structure Header where
  seq : Word
  ack : Word
  syn : Bool
  ackf : Bool
  fin : Bool
  rst : Bool
  unused : BitVec 12
  win : Half
deriving DecidableEq, Repr

/-- The kinds of packet, spec/30_encoding.md R93. -/
inductive PktClass where
  | syn
  | synack
  | ack
  | none
  | fin
  | finack
  | invalid
deriving DecidableEq, Repr

/-- What a wire row of the opcode table leaves open: every header field but SYN, ACK and FIN, which
the row's mask 0xE000 fixes, and the payload (R90, R95). -/
structure Packet where
  seq : Word
  ack : Word
  rst : Bool
  unused : BitVec 12
  win : Half
  payload : List Byte
deriving DecidableEq, Repr

/-- One constructor per row of spec/opcode_table.json: 13 command words, whose operands are not in
the word but in ARG0 to ARG3 (R80, R82), and 8 wire classes. -/
inductive Instr where
  | configure
  | bind
  | listen
  | connect
  | sendSaw
  | sendGbn
  | sendSr
  | recvSaw
  | recvGbn
  | recvSr
  | close
  | wrtx
  | rdrx
  | pktSyn (p : Packet)
  | pktSynack (p : Packet)
  | pktAck (p : Packet)
  | pktNone (p : Packet)
  | pktFin (p : Packet)
  | pktFinack (p : Packet)
  | pktInvalidSynfin (p : Packet)
  | pktInvalidSynackfin (p : Packet)
deriving DecidableEq, Repr

/-- The two kinds of encoded object (30_encoding.md): a 32-bit command word, or the bytes of one
datagram. -/
inductive Encoded where
  | cmd (w : Word)
  | wire (dg : List Byte)
deriving DecidableEq, Repr

/-- Why a command word is not the word of a command (R83, R84). Each names the opcode found. -/
inductive CmdReject where
  /-- Bits 31:10 are not 0. -/
  | reservedBits (opc : Byte)
  /-- The opcode is 0x00 or 0x0A to 0xFF. -/
  | reservedOpcode (opc : Byte)
  /-- PROTO is not 0 and the command takes no protocol. -/
  | protoNotTaken (opc : Byte)
  /-- SEND or RECV with PROTO = 3: a legal word shape, refused with ERR_PROTO. -/
  | protoReserved (opc : Byte)
deriving DecidableEq, Repr

/-- `FramingError(n)`, the codec's one failure (40_codec.md R114); `len` is the datagram's length. -/
structure FramingError where
  len : Nat
deriving DecidableEq, Repr

/-- Everything the decoder can refuse, by name. -/
inductive Reject where
  | cmd (r : CmdReject)
  | framing (e : FramingError)
deriving DecidableEq, Repr

end Sys2Proof
end

