-- ==== Sys2Proof/WellFormed.lean ====
section
/-! DEFINITION. Which instructions have an encoding: a packet's payload is no longer than `MPS_MAX`
(spec/30_encoding.md R92, spec/40_codec.md R114). A command has no operand in its word, so every
command is well-formed. -/

namespace Sys2Proof

/-- The payload fits the largest datagram RTE accepts. -/
def Packet.fits (P : Params) (p : Packet) : Bool := p.payload.length ≤ P.mpsMax

/-- The check of one instruction, for an implementation with parameters `P`. -/
def Instr.wellFormed (P : Params) : Instr → Bool
  | .configure => true
  | .bind => true
  | .listen => true
  | .connect => true
  | .sendSaw => true
  | .sendGbn => true
  | .sendSr => true
  | .recvSaw => true
  | .recvGbn => true
  | .recvSr => true
  | .close => true
  | .wrtx => true
  | .rdrx => true
  | .pktSyn p => p.fits P
  | .pktSynack p => p.fits P
  | .pktAck p => p.fits P
  | .pktNone p => p.fits P
  | .pktFin p => p.fits P
  | .pktFinack p => p.fits P
  | .pktInvalidSynfin p => p.fits P
  | .pktInvalidSynackfin p => p.fits P

/-- The well-formed instructions of an implementation with parameters `P`. -/
abbrev WellFormed (P : Params) (i : Instr) : Prop := i.wellFormed P = true

end Sys2Proof
end

