-- ==== Sys2Proof/Decode.lean ====
section
/-! DEFINITION. The decoders of spec/30_encoding.md and spec/40_codec.md, total on every word and on
every byte string, and after them the encoders, written from the same tables. The codec is
combinational: every function here is pure (40_codec.md). -/

namespace Sys2Proof

/-! ## Byte order (R9, R61): big-endian everywhere on the wire -/

/-- `be16(v)` of R9. -/
def be16 (v : Half) : List Byte := [v.extractLsb' 8 8, v.extractLsb' 0 8]

/-- `be32(v)` of R9. -/
def be32 (v : Word) : List Byte :=
  [v.extractLsb' 24 8, v.extractLsb' 16 8, v.extractLsb' 8 8, v.extractLsb' 0 8]

/-- `b[i]` of R9. The readers below use it only inside the string. -/
def byteAt (b : List Byte) (i : Nat) : Byte := b.getD i 0

/-- `rd_be16(b, i)` of R9. -/
def rdBe16 (b : List Byte) (i : Nat) : Half := byteAt b i ++ byteAt b (i + 1)

/-- `rd_be32(b, i)` of R9. -/
def rdBe32 (b : List Byte) (i : Nat) : Word :=
  byteAt b i ++ byteAt b (i + 1) ++ byteAt b (i + 2) ++ byteAt b (i + 3)

/-! ## Datagrams (R110) -/

/-- The bound of the datagram type: a byte string of length 0 to 65535 (R110; spec/20_memory.md
R60). -/
def isDatagram (dg : List Byte) : Bool := dg.length ≤ 65535

/-! ## Command words (R80 to R84) -/

/-- Field `OPC`, bits 7:0 (R80). -/
def cmdOpc (w : Word) : Byte := w.extractLsb' 0 8

/-- Field `PROTO`, bits 9:8 (R80). -/
def cmdProto (w : Word) : BitVec 2 := w.extractLsb' 8 2

/-- Bits 31:10, which must be 0 (R80). -/
def cmdReserved (w : Word) : BitVec 22 := w.extractLsb' 10 22

/-- A command that takes no protocol: PROTO must be 0 (R83). -/
def plainCmd (opc : Byte) (proto : BitVec 2) (i : Instr) : Except CmdReject Instr :=
  if proto = 0 then .ok i else .error (.protoNotTaken opc)

/-- SEND and RECV: PROTO 0, 1, 2 select the variant and 3 is refused (R83). -/
def protoCmd (opc : Byte) (proto : BitVec 2) (saw gbn sr : Instr) : Except CmdReject Instr :=
  if proto = 0 then .ok saw
  else if proto = 1 then .ok gbn
  else if proto = 2 then .ok sr
  else .error (.protoReserved opc)

/-- The opcode map R81 with the reserved words of R84. -/
def decodeCmd (w : Word) : Except CmdReject Instr :=
  let opc := cmdOpc w
  let proto := cmdProto w
  if cmdReserved w ≠ 0 then .error (.reservedBits opc)
  else if opc = 0x01 then plainCmd opc proto .configure
  else if opc = 0x02 then plainCmd opc proto .bind
  else if opc = 0x03 then plainCmd opc proto .listen
  else if opc = 0x04 then plainCmd opc proto .connect
  else if opc = 0x05 then protoCmd opc proto .sendSaw .sendGbn .sendSr
  else if opc = 0x06 then protoCmd opc proto .recvSaw .recvGbn .recvSr
  else if opc = 0x07 then plainCmd opc proto .close
  else if opc = 0x08 then plainCmd opc proto .wrtx
  else if opc = 0x09 then plainCmd opc proto .rdrx
  else .error (.reservedOpcode opc)

/-! ## Wire packets (R90 to R96, R111 to R117) -/

/-- `flagword(h)` (R112): SYN, ACK, FIN, RST from bit 15 down, then the 12 unused bits (R91). -/
def flagword (h : Header) : Half :=
  BitVec.ofBool h.syn ++ BitVec.ofBool h.ackf ++ BitVec.ofBool h.fin ++ BitVec.ofBool h.rst
    ++ h.unused

/-- `encode_hdr(h)` (R111): 12 bytes. -/
def encodeHdr (h : Header) : List Byte :=
  be32 h.seq ++ be32 h.ack ++ be16 (flagword h) ++ be16 h.win

/-- `frame(h, p)` (R113). -/
def frame (h : Header) (p : List Byte) : List Byte := encodeHdr h ++ p

/-- The header fields of a datagram of at least 12 bytes (R95). -/
def readHdr (dg : List Byte) : Header :=
  let fw := rdBe16 dg 8
  { seq := rdBe32 dg 0
    ack := rdBe32 dg 4
    syn := fw.getLsbD 15
    ackf := fw.getLsbD 14
    fin := fw.getLsbD 13
    rst := fw.getLsbD 12
    unused := fw.extractLsb' 0 12
    win := rdBe16 dg 10 }

/-- `deframe(dg)` (R114): the packet, or `FramingError` when the datagram is shorter than the header
or longer than `DGRAM_MAX`. -/
def deframe (P : Params) (dg : List Byte) : Except FramingError (Header × List Byte) :=
  if dg.length < 12 then .error ⟨dg.length⟩
  else if P.dgramMax < dg.length then .error ⟨dg.length⟩
  else .ok (readHdr dg, dg.drop 12)

/-- `classify(h)` (R116): by SYN, ACK and FIN alone. -/
def classify (h : Header) : PktClass :=
  match h.syn, h.ackf, h.fin with
  | true, false, false => .syn
  | true, true, false => .synack
  | false, true, false => .ack
  | false, false, false => .none
  | false, false, true => .fin
  | false, true, true => .finack
  | true, false, true => .invalid
  | true, true, true => .invalid

/-- The packet a header and a payload make, without the three class bits. -/
def packetOf (h : Header) (payload : List Byte) : Packet :=
  { seq := h.seq, ack := h.ack, rst := h.rst, unused := h.unused, win := h.win, payload }

/-- The opcode table's wire row of a decoded packet: its class, the INVALID class split into its
two rows by ACK (R93). -/
def wireInstr (h : Header) (payload : List Byte) : Instr :=
  match classify h with
  | .syn => .pktSyn (packetOf h payload)
  | .synack => .pktSynack (packetOf h payload)
  | .ack => .pktAck (packetOf h payload)
  | .none => .pktNone (packetOf h payload)
  | .fin => .pktFin (packetOf h payload)
  | .finack => .pktFinack (packetOf h payload)
  | .invalid =>
    if h.ackf then .pktInvalidSynackfin (packetOf h payload)
    else .pktInvalidSynfin (packetOf h payload)

/-- The decoder of one received datagram. -/
def decodeWire (P : Params) (dg : List Byte) : Except FramingError Instr :=
  match deframe P dg with
  | .ok (h, payload) => .ok (wireInstr h payload)
  | .error e => .error e

/-- The whole decoder. -/
def decode (P : Params) : Encoded → Except Reject Instr
  | .cmd w =>
    match decodeCmd w with
    | .ok i => .ok i
    | .error r => .error (.cmd r)
  | .wire dg =>
    match decodeWire P dg with
    | .ok i => .ok i
    | .error e => .error (.framing e)

/-! ## The encoder -/

/-- The header of a packet whose class bits are the three given. -/
def Packet.header (p : Packet) (syn ackf fin : Bool) : Header :=
  { seq := p.seq, ack := p.ack, syn, ackf, fin, rst := p.rst, unused := p.unused, win := p.win }

/-- The datagram of a packet whose class bits are the three given. -/
def Packet.datagram (p : Packet) (syn ackf fin : Bool) : List Byte :=
  frame (p.header syn ackf fin) p.payload

/-- The encoding of an instruction: the CMD word of R85, or the datagram with the class bits of
R93. -/
def encode : Instr → Encoded
  | .configure => .cmd 0x00000001
  | .bind => .cmd 0x00000002
  | .listen => .cmd 0x00000003
  | .connect => .cmd 0x00000004
  | .sendSaw => .cmd 0x00000005
  | .sendGbn => .cmd 0x00000105
  | .sendSr => .cmd 0x00000205
  | .recvSaw => .cmd 0x00000006
  | .recvGbn => .cmd 0x00000106
  | .recvSr => .cmd 0x00000206
  | .close => .cmd 0x00000007
  | .wrtx => .cmd 0x00000008
  | .rdrx => .cmd 0x00000009
  | .pktSyn p => .wire (p.datagram true false false)
  | .pktSynack p => .wire (p.datagram true true false)
  | .pktAck p => .wire (p.datagram false true false)
  | .pktNone p => .wire (p.datagram false false false)
  | .pktFin p => .wire (p.datagram false false true)
  | .pktFinack p => .wire (p.datagram false true true)
  | .pktInvalidSynfin p => .wire (p.datagram true false true)
  | .pktInvalidSynackfin p => .wire (p.datagram true true true)

/-! ## The opcode table's words -/

/-- The datagram of a wire row: the row's 16 bits are the flags word, header bytes 8 and 9; every
other header bit is 0 and there is no payload. -/
def tableDatagram (w : Nat) : List Byte :=
  be32 0 ++ be32 0 ++ be16 (BitVec.ofNat 16 w) ++ be16 0

/-- What the decoder reads from a table row's word: a row of 32 bits is a command word, a row of 16
bits is the flags word of a datagram (the table's `format` column). -/
def decodeTableWord (nbits w : Nat) : Option Instr :=
  if nbits = 32 then (decodeCmd (BitVec.ofNat 32 w)).toOption
  else if nbits = 16 then (decodeWire Params.suggested (tableDatagram w)).toOption
  else none

end Sys2Proof
end

