-- ==== Sys2Proof/Machine/State.lean ====
section
/-! DEFINITION. The state of one RTE instance: every register, buffer and map of spec/10_state.md,
the parameters, and, as the model's own fields, the environment's side of an event (the pending
input events, the oracle answers) and the outputs of the latest step. All of it is plain data. -/

namespace Sys2Proof.Machine

/-- `CONN_STATE` (R30). -/
inductive ConnState where
  | closed
  | listen
  | synSent
  | synReceived
  | established
  | closing
deriving DecidableEq, Repr

/-- `XFER` (R30). -/
inductive Xfer where
  | idle
  | sendSaw
  | sendGbn
  | sendSr
  | recvSaw
  | recvGbn
  | recvSr
deriving DecidableEq, Repr

/-- The result codes of spec/60_exceptions.md R260; the codes 0xC to 0xF are never written. -/
inductive ResultCode where
  | ok
  | errIllegal
  | errBusy
  | errState
  | errProto
  | errConfig
  | errRange
  | errBindInvalid
  | errBindInUse
  | errResource
  | connectFail
  | rxOverflow
deriving DecidableEq, Repr

/-- An entry of SNDBUF (R36): the payload length and the exact datagram last transmitted. -/
structure SndEntry where
  len : Half
  dg : List Byte
deriving DecidableEq, Repr

/-- The class tag of a TX record (40_codec.md R119). -/
inductive TxClass where
  | hs
  | data
deriving DecidableEq, Repr

/-- One record of the TX port (R45, R119): a datagram of R110 with its destination and tag. That its
bytes are no longer than R110 allows follows from the parameters' bounds. -/
structure TxRecord where
  bytes : List Byte
  dest : Addr
  cls : TxClass
deriving DecidableEq, Repr

/-- One record of the event-hook port (60_exceptions.md R276). -/
inductive HookRecord where
  | framing (n : Nat)
  | timeout (cs : ConnState) (xf : Xfer)
  | retx (k : Nat)
  | finRetx (f : Word)
  | done (code : ResultCode)
deriving DecidableEq, Repr

/-- What one step emits (R45): TX records and hook records, each in emission order, the
`xfer_reset` pulse, and the word a host bus read returns. Outputs are not RTE state; the field is
the model's own, emptied when a step begins (log entry 3). -/
structure StepOutput where
  tx : List TxRecord
  hooks : List HookRecord
  xferReset : Bool
  busData : Option Word
deriving DecidableEq, Repr

/-- Nothing emitted. -/
def StepOutput.none : StepOutput := { tx := [], hooks := [], xferReset := false, busData := .none }

/-- The environment's answer to `BindResult(addr)` (R275). -/
inductive BindAnswer where
  | ok
  | invalid
  | inUse
  | resource
deriving DecidableEq, Repr

/-- The environment's answer to `OpenResult()` (R275): OK with an ephemeral local tag, or
ERR_RESOURCE. -/
inductive OpenAnswer where
  | ok (e : Addr)
  | resource
deriving DecidableEq, Repr

/-- The oracle inputs that stand on RTE's side ports during a CMD event (R275). -/
structure EnvAnswer where
  bind : BindAnswer
  openSocket : OpenAnswer
deriving DecidableEq, Repr

/-- What the environment can present (00_scope.md R8; 20_memory.md R64). A host write to CMD is the
CMD event (R23); the oracle answers of BIND and CONNECT come with the write (R275). An `rx` carries a
datagram of R110 with its source; `rxEvent` takes no byte string that is longer than one. -/
inductive Event where
  | hostWrite (addr data : Word) (ans : EnvAnswer)
  | hostRead (addr : Word)
  | rx (dg : List Byte) (src : Addr)
  | tick
  | reset
deriving DecidableEq, Repr

/-- A byte memory, TXMEM or DELIV: the bytes written since the last reset, by address. An unlisted
address holds no written byte; what reading it gives is a free value (`Config.txMemDraw`,
`Config.delivDraw`). -/
abbrev Memory := List Host.Cell

/-- The canonical form of a memory: addresses strictly rising. An unlisted address reads as "nothing
written", which no entry equals, so equal memories are equal lists. -/
abbrev Memory.wf (m : Memory) : Prop := m.Pairwise (fun x y => x.1 < y.1)

/-- A finite map from offsets (SNDBUF, RXBUF, OOO; R36, R39, R40): entries by strictly rising
offset. -/
abbrev OffsetMap (α : Type) := List (Nat × α)

/-- The canonical form of an offset map, the same as a memory's. -/
abbrev OffsetMap.wf {α : Type} (m : OffsetMap α) : Prop := m.Pairwise (fun x y => x.1 < y.1)

/-- The state. Each field names its rule. -/
structure State where
  /-- The implementation's parameters (R6); no event writes them. -/
  params : Params
  /-- `CFG_MPS` (R20). -/
  cfgMps : Half
  /-- `CFG_WIN` (R20). -/
  cfgWin : Half
  /-- `CFG_RTO` (R20). -/
  cfgRto : Word
  /-- `CFG_VALID` (R20). -/
  cfgValid : Bool
  /-- `CFG_LOSS_P` (R21), exported only. -/
  cfgLossP : Word
  /-- `CFG_LOSS_MAX` (R21), exported only. -/
  cfgLossMax : BitVec 31
  /-- `CFG_VERBOSE` (R21), exported only. -/
  cfgVerbose : Bool
  /-- `ARG0` (R22). -/
  arg0 : Word
  /-- `ARG1` (R22). -/
  arg1 : Word
  /-- `ARG2` (R22). -/
  arg2 : Word
  /-- `ARG3` (R22). -/
  arg3 : Word
  /-- `RESULT` (R24). -/
  result : Word
  /-- `STATUS.CODE` (R25, R26). -/
  code : ResultCode
  /-- `CONN_STATE` (R30). -/
  connState : ConnState
  /-- `XFER` (R30). -/
  xfer : Xfer
  /-- `SOCK_OPEN` (R31). -/
  sockOpen : Bool
  /-- `LINGER` (R34). -/
  linger : Bool
  /-- `LOCAL_ADDR` (R32). -/
  localAddr : Addr
  /-- `PEER_ADDR` (R32). -/
  peerAddr : Addr
  /-- `HS_NXT` (R33). -/
  hsNxt : Word
  /-- `TX_LEN` (R35). -/
  txLen : Word
  /-- `NXT` (R35). -/
  nxt : Word
  /-- `SNDBUF` (R36). -/
  sndBuf : OffsetMap SndEntry
  /-- `TXMEM` (R37). -/
  txMem : Memory
  /-- `EXP` (R38). -/
  exp : Word
  /-- `RXBUF` (R39). -/
  rxBuf : OffsetMap (List Byte)
  /-- `OOO` (R40). -/
  ooo : OffsetMap (List Byte)
  /-- `RX_OVF` (R42). -/
  rxOvf : Bool
  /-- `DELIV` (R43). -/
  deliv : Memory
  /-- `DELIV_LEN` (R43). -/
  delivLen : Word
  /-- `TMR` (R44). -/
  tmr : Word
  /-- `TMR_ARMED` (R44). -/
  tmrArmed : Bool
  /-- The model's own: which of several instances this is (R272); with `resets` it selects the draw
  of each unwritten memory byte (R37, R43). No event writes it. -/
  unit : Nat
  /-- The model's own: how many RESET events have happened; with `unit` it selects the draw of each
  unwritten memory byte (R37, R43). -/
  resets : Nat
  /-- The model's own: the oracle answers presented with the current CMD event (R275). -/
  answer : EnvAnswer
  /-- The model's own: the source tag presented with the current RX event (R110, R142). -/
  rxSrc : Addr
  /-- The model's own: the events the environment will present, in order (R8, R269). -/
  inputs : List Event
  /-- The model's own: what the latest step emitted (R45). -/
  out : StepOutput
deriving DecidableEq, Repr

/-- RTE stops with no fault: an error is a code in STATUS and a malformed datagram is dropped (R117,
R263, R270; log entry 11). The type has no constructor: nothing raises one. -/
inductive Fault where
deriving DecidableEq, Repr

/-- Why the model has no meaning for an instruction. -/
inductive Refusal where
  /-- Raised by an arm of `exec` for an instruction that has no meaning yet, by its mnemonic; safe,
  since the model stops. No arm raises it now. -/
  | notModelled (mnemonic : String)
deriving DecidableEq, Repr

/-- The state right after reset: R48's table, the suggested parameters of R6, no pending event. The
values of the fields marked as the model's own are DESIGN CHOICEs (log entries 1, 3, 4, 5). -/
def State.reset : State where
  params := Params.suggested
  cfgMps := 0
  cfgWin := 0
  cfgRto := 0
  cfgValid := false
  cfgLossP := 0
  cfgLossMax := 0
  cfgVerbose := false
  arg0 := 0
  arg1 := 0
  arg2 := 0
  arg3 := 0
  result := 0
  code := .ok
  connState := .closed
  xfer := .idle
  sockOpen := false
  linger := false
  localAddr := 0
  peerAddr := 0
  hsNxt := 0
  txLen := 0
  nxt := 0
  sndBuf := []
  txMem := []
  exp := 0
  rxBuf := []
  ooo := []
  rxOvf := false
  deliv := []
  delivLen := 0
  tmr := 0
  tmrArmed := false
  unit := 0
  resets := 0
  answer := { bind := .ok, openSocket := .ok 0 }
  rxSrc := 0
  inputs := []
  out := StepOutput.none

end Sys2Proof.Machine
end

