-- ==== Sys2Proof/Machine/Flags.lean ====
section
/-! DEFINITION. Every derived flag and the STATUS word (spec/10_state.md R25, R27, R30, R41;
spec/41_lifecycle.md R141; spec/60_exceptions.md R260). RTE has no arithmetic condition code
(R50). -/

namespace Sys2Proof.Machine

/-- The value of `CONN_STATE` (R30). -/
def ConnState.bits : ConnState → BitVec 3
  | .closed => 0
  | .listen => 1
  | .synSent => 2
  | .synReceived => 3
  | .established => 4
  | .closing => 5

/-- The value of `XFER` (R30). -/
def Xfer.bits : Xfer → BitVec 3
  | .idle => 0
  | .sendSaw => 1
  | .sendGbn => 2
  | .sendSr => 3
  | .recvSaw => 4
  | .recvGbn => 5
  | .recvSr => 6

/-- The value of a result code (R260). -/
def ResultCode.bits : ResultCode → BitVec 4
  | .ok => 0x0
  | .errIllegal => 0x1
  | .errBusy => 0x2
  | .errState => 0x3
  | .errProto => 0x4
  | .errConfig => 0x5
  | .errRange => 0x6
  | .errBindInvalid => 0x7
  | .errBindInUse => 0x8
  | .errResource => 0x9
  | .connectFail => 0xA
  | .rxOverflow => 0xB

/-- The codes with which R261 refuses a command; the environment's answers and the completions have
others (R147, R149, R260). -/
def ResultCode.isRefusal : ResultCode → Bool
  | .ok => false
  | .errIllegal => true
  | .errBusy => true
  | .errState => true
  | .errProto => true
  | .errConfig => true
  | .errRange => true
  | .errBindInvalid => false
  | .errBindInUse => false
  | .errResource => false
  | .connectFail => false
  | .rxOverflow => false

/-- XFER is one of the three sender engines. -/
def Xfer.isSend : Xfer → Bool
  | .idle => false
  | .sendSaw => true
  | .sendGbn => true
  | .sendSr => true
  | .recvSaw => false
  | .recvGbn => false
  | .recvSr => false

/-- XFER is one of the three receivers (`RECV_*`). -/
def Xfer.isRecv : Xfer → Bool
  | .idle => false
  | .sendSaw => false
  | .sendGbn => false
  | .sendSr => false
  | .recvSaw => true
  | .recvGbn => true
  | .recvSr => true

/-- `BUSY` (R27). -/
def busy (s : State) : Bool :=
  match s.connState with
  | .listen => true
  | .synSent => true
  | .synReceived => true
  | .closed => s.xfer != .idle
  | .established => s.xfer != .idle
  | .closing => s.xfer != .idle

/-- `rx_ready` (R141). -/
def rxReady (s : State) : Bool :=
  s.sockOpen &&
    match s.connState with
    | .listen => true
    | .synSent => true
    | .synReceived => true
    | .closing => true
    | .established => s.xfer != .idle
    | .closed => s.linger

/-- The states in which a consumed datagram that does not end the wait re-arms the timer (R144). -/
def waitRestarts (s : State) : Bool :=
  match s.connState with
  | .listen => true
  | .synSent => true
  | .synReceived => true
  | .closing => true
  | .established => s.xfer == .sendSaw || s.xfer == .sendGbn
  | .closed => false

/-- The number of payload bytes a map of byte strings holds. -/
def mapBytes (m : OffsetMap (List Byte)) : Nat := (m.map (fun e => e.2.length)).sum

/-- `RXBYTES` (R41). -/
def rxBytes (s : State) : Nat := mapBytes s.rxBuf + mapBytes s.ooo

/-- `Done()` (42_sender.md R191). -/
def sendDone (s : State) : Bool := s.nxt == s.txLen && s.sndBuf.isEmpty

/-- `STATUS` (R25): the fields from bit 31 down to bit 0. -/
def statusWord (s : State) : Word :=
  (0 : BitVec 16) ++ BitVec.ofBool s.tmrArmed ++ BitVec.ofBool s.cfgValid
    ++ BitVec.ofBool s.rxOvf ++ BitVec.ofBool s.linger ++ BitVec.ofBool s.sockOpen
    ++ s.xfer.bits ++ s.connState.bits ++ BitVec.ofBool (busy s) ++ s.code.bits

end Sys2Proof.Machine
end

