-- ==== Sys2Proof/Machine/Operands.lean ====
section
/-! DEFINITION. Operand assembly (spec/30_encoding.md R82): every operand is a field of ARG0 to ARG3
as they stand at the CMD event, zero-extended, with its legal range; and the width of an address
tag (spec/10_state.md R32). -/

namespace Sys2Proof.Machine

/-- An address tag: the low `ADDR_W` bits (R32, R82; log entry 7). -/
def tagOf (P : Params) (a : Addr) : Addr := BitVec.ofNat 64 (a.toNat % 2 ^ P.addrW)

/-- CONFIGURE `mps` = ARG0[15:0]. -/
def opMps (s : State) : Half := s.arg0.extractLsb' 0 16

/-- CONFIGURE `win` = ARG0[31:16]. -/
def opWin (s : State) : Half := s.arg0.extractLsb' 16 16

/-- CONFIGURE `rto` = ARG1. -/
def opRto (s : State) : Word := s.arg1

/-- CONFIGURE `loss_p` = ARG2. -/
def opLossP (s : State) : Word := s.arg2

/-- CONFIGURE `loss_max` = ARG3[30:0]. -/
def opLossMax (s : State) : BitVec 31 := s.arg3.extractLsb' 0 31

/-- CONFIGURE `verbose` = ARG3[31]. -/
def opVerbose (s : State) : Bool := s.arg3.getLsbD 31

/-- The 64-bit `ADDR` of BIND and CONNECT: ARG1 above ARG0. -/
def opAddr64 (s : State) : Addr := s.arg1 ++ s.arg0

/-- BIND and CONNECT `addr` = ADDR[ADDR_W−1:0]. -/
def opAddr (s : State) : Addr := tagOf s.params (opAddr64 s)

/-- SEND `len` = ARG0. -/
def opLen (s : State) : Word := s.arg0

/-- WRTX and RDRX `a` = ARG0, a byte address. -/
def opByteAddr (s : State) : Nat := s.arg0.toNat

/-- WRTX `b` = ARG1[7:0]; ARG1[31:8] are ignored. -/
def opByte (s : State) : Byte := s.arg1.extractLsb' 0 8

/-! ## Legal ranges -/

/-- CONFIGURE: `mps` in 1..MPS_MAX, `win` in 1..WMAX, `rto` ≥ 1. -/
def configLegal (s : State) : Bool :=
  1 ≤ (opMps s).toNat && (opMps s).toNat ≤ s.params.mpsMax
    && 1 ≤ (opWin s).toNat && (opWin s).toNat ≤ s.params.wMax
    && 1 ≤ (opRto s).toNat

/-- BIND and CONNECT: ADDR[63:ADDR_W] = 0. -/
def addrInRange (s : State) : Bool := (opAddr64 s).toNat < 2 ^ s.params.addrW

/-- SEND: `len` ≤ TX_CAP. -/
def lenInRange (s : State) : Bool := (opLen s).toNat ≤ s.params.txCap

/-- WRTX: `a` < TX_CAP. -/
def txAddrInRange (s : State) : Bool := opByteAddr s < s.params.txCap

/-- RDRX: `a` < DELIV_LEN. -/
def delivAddrInRange (s : State) : Bool := opByteAddr s < s.delivLen.toNat

end Sys2Proof.Machine
end

