-- ==== Sys2Proof/Machine/Ops.lean ====
section
/-! DEFINITION. The named operations the handlers are written with: lists by key (memories and
offset maps), the effect primitives of spec/00_scope.md R10, the packets RTE emits
(spec/40_codec.md R120 to R126), the command check and the refusal of a command
(spec/60_exceptions.md R261, R262), the drop of a malformed datagram (R263). RTE has no trap entry
and no trap return (R270): those two are what it has in their place. -/

namespace Sys2Proof.Machine

/-! ## Lists by key -/

/-- `MAP[k]`, `none` when `k ∉ MAP` (R10). -/
def lookupKey {α : Type} (k : Nat) : List (Nat × α) → Option α
  | [] => none
  | (a, v) :: t => if k = a then some v else lookupKey k t

/-- `k ∈ MAP` (R10). -/
def hasKey {α : Type} (k : Nat) (m : List (Nat × α)) : Bool := (lookupKey k m).isSome

/-- `MAP[k] <- v` (R10): inserts in key order, or replaces. -/
def insertKey {α : Type} (k : Nat) (v : α) : List (Nat × α) → List (Nat × α)
  | [] => [(k, v)]
  | (a, w) :: t =>
    if k < a then (k, v) :: (a, w) :: t
    else if k = a then (k, v) :: t
    else (a, w) :: insertKey k v t

/-- `delete MAP[k]` (R10). -/
def eraseKey {α : Type} (k : Nat) : List (Nat × α) → List (Nat × α)
  | [] => []
  | (a, w) :: t => if k = a then t else (a, w) :: eraseKey k t

/-- `MemWrite(M, a, len b, b)` (R10). -/
def writeBytes (a : Nat) : List Byte → Memory → Memory
  | [], m => m
  | b :: bs, m => writeBytes (a + 1) bs (insertKey a b m)

/-- `TXMEM[a]`: the byte the host wrote there, or the free value of an unwritten byte (R37). -/
def txByte (s : State) (a : Nat) : Byte :=
  (lookupKey a s.txMem).getD (Config.txMemDraw s.unit s.resets a)

/-- `DELIV[a]`: the delivered byte, or the free value of an unwritten byte (R43). -/
def delivByte (s : State) (a : Nat) : Byte :=
  (lookupKey a s.deliv).getD (Config.delivDraw s.unit s.resets a)

/-- `MemRead(TXMEM, a, n)` (R10). -/
def txRead (s : State) (a n : Nat) : List Byte := (List.range n).map (fun i => txByte s (a + i))

/-! ## Effect primitives (R10) -/

/-- `Emit(dg, cls)`: one datagram to `PEER_ADDR` (R119). -/
def emit (dg : List Byte) (cls : TxClass) (s : State) : State :=
  { s with out := { s.out with tx := s.out.tx ++ [{ bytes := dg, dest := s.peerAddr, cls }] } }

/-- `Hook(ev, args)` (R276). -/
def pushHook (r : HookRecord) (s : State) : State :=
  { s with out := { s.out with hooks := s.out.hooks ++ [r] } }

/-- `pulse xfer_reset` (R277). -/
def pulseXferReset (s : State) : State := { s with out := { s.out with xferReset := true } }

/-- `CODE <- c` (R26). -/
def setCode (c : ResultCode) (s : State) : State := { s with code := c }

/-- `Finish(code)` (R10): the completion of a long-running command. -/
def finish (c : ResultCode) (s : State) : State := pushHook (.done c) (setCode c s)

/-- `Arm()` (R266). -/
def arm (s : State) : State := { s with tmr := s.cfgRto, tmrArmed := true }

/-- `Disarm()` (R266): leaves `TMR` as it is. -/
def disarm (s : State) : State := { s with tmrArmed := false }

/-- `RestartWait()` (R144). -/
def restartWait (s : State) : State := if waitRestarts s then arm s else s

/-- The sender's part of the per-transfer state takes its reset value (R49). -/
def clearSender (s : State) : State := { s with txLen := 0, nxt := 0, sndBuf := [], hsNxt := 0 }

/-! ## The packets RTE emits (R120 to R126) -/

/-- A header RTE emits: `win = CFG_WIN`, RST and the unused bits 0 (R111). -/
def txHeader (s : State) (seq ack : Word) (syn ackf fin : Bool) : Header :=
  { seq, ack, syn, ackf, fin, rst := false, unused := 0, win := s.cfgWin }

/-- `SYN_PKT` (R120). -/
def synPkt (s : State) : List Byte := frame (txHeader s 0 0 true false false) []

/-- `SYNACK_PKT` (R121). -/
def synackPkt (s : State) : List Byte := frame (txHeader s 0 s.hsNxt true true false) []

/-- `HSACK_PKT` (R122). -/
def hsackPkt (s : State) : List Byte := frame (txHeader s 0 s.hsNxt false true false) []

/-- `DATA_PKT(k, p)` (R123). -/
def dataPkt (s : State) (k : Word) (p : List Byte) : List Byte :=
  frame (txHeader s k s.hsNxt false true false) p

/-- `FIN_PKT` (R124). -/
def finPkt (s : State) : List Byte := frame (txHeader s s.txLen s.hsNxt false false true) []

/-- `DACK_PKT(a)` (R125). -/
def dackPkt (s : State) (a : Word) : List Byte := frame (txHeader s 0 a false true false) []

/-- `FINACK_PKT(f)` (R126). -/
def finackPkt (s : State) (f : Word) : List Byte := frame (txHeader s 0 f false true true) []

/-! ## Commands: the check, the refusal, the dispatch -/

/-- What the checks 2, 4, 5 and 6 of R261 ask for one command (R145). -/
structure CmdCheck where
  /-- Allowed while BUSY = 1: CLOSE and RDRX. -/
  whileBusy : Bool
  stateOk : Bool
  configOk : Bool
  rangeOk : Bool
deriving DecidableEq, Repr

/-- The checks of R261 that follow the decoding of the word, in their order: BUSY, STATE, CONFIG,
RANGE. (ILLEGAL and PROTO are the decoder's; `refuseWord` orders PROTO behind BUSY.) -/
def checkCmd (c : CmdCheck) (s : State) : ResultCode :=
  if busy s && !c.whileBusy then .errBusy
  else if !c.stateOk then .errState
  else if !c.configOk then .errConfig
  else if !c.rangeOk then .errRange
  else .ok

/-- A refused command: its one effect is `CODE` (R262). -/
def refuseCmd (c : ResultCode) (s : State) : State := setCode c s

/-- The CMD event of a decoded word (R140): refused with the first failing check, or `CODE <- OK`
and then the handler. -/
def runCmd (c : CmdCheck) (handler : State → State) (s : State) : State :=
  match checkCmd c s with
  | .ok => handler (setCode .ok s)
  | r => refuseCmd r s

/-- The CMD event of a word that is no command (R84, R261): ERR_ILLEGAL; for PROTO = 3 on SEND and
RECV, ERR_BUSY before ERR_PROTO. R140 also clears RESULT when the opcode is RDRX's (log entry 6). -/
def refuseWord (r : CmdReject) (s : State) : State :=
  match r with
  | .reservedBits opc => refuseCmd .errIllegal (if opc = 0x09 then { s with result := 0 } else s)
  | .reservedOpcode _ => refuseCmd .errIllegal s
  | .protoNotTaken opc => refuseCmd .errIllegal (if opc = 0x09 then { s with result := 0 } else s)
  | .protoReserved _ => refuseCmd (if busy s then .errBusy else .errProto) s

/-! ## Received datagrams -/

/-- A handler of an RX event is enabled only while `rx_ready` = 1; a handler that is not enabled
does nothing (R141, R11; log entry 11). -/
def whenReady (handler : State → State) (s : State) : State :=
  if rxReady s then handler s else s

/-- A datagram that does not end the wait: consumed, and `RestartWait()` (R94, R144). -/
def ignorePacket (s : State) : State := restartWait s

/-- A framing error (R142, R263): the datagram is dropped and the wait continues. -/
def dropMalformed (n : Nat) (s : State) : State := restartWait (pushHook (.framing n) s)

end Sys2Proof.Machine
end

