-- ==== Sys2Proof/Machine/Lifecycle.lean ====
section
/-! DEFINITION. The lifecycle commands (spec/41_lifecycle.md R146 to R152) and the handshake and
teardown handlers of the connection FSM (R155 to R168). -/

namespace Sys2Proof.Machine

/-! ## Commands -/

/-- CONFIGURE, past its checks (R146). -/
def configureHandler (s : State) : State :=
  { s with
    cfgMps := opMps s
    cfgWin := opWin s
    cfgRto := opRto s
    cfgLossP := opLossP s
    cfgLossMax := opLossMax s
    cfgVerbose := opVerbose s
    cfgValid := true }

/-- CONFIGURE: no state condition; operands in range, else ERR_CONFIG (R145, R146). -/
def execConfigure (s : State) : Host.Outcome State Fault Refusal :=
  .next (runCmd ⟨false, true, configLegal s, true⟩ configureHandler s)

/-- BIND, past its checks: the environment's answer decides (R147, R275). -/
def bindHandler (s : State) : State :=
  match s.answer.bind with
  | .ok => { s with sockOpen := true, localAddr := opAddr s, linger := false }
  | .invalid => setCode .errBindInvalid s
  | .inUse => setCode .errBindInUse s
  | .resource => setCode .errResource s

/-- BIND: SOCK_OPEN = 0; address in range (R145, R147). -/
def execBind (s : State) : Host.Outcome State Fault Refusal :=
  .next (runCmd ⟨false, !s.sockOpen, true, addrInRange s⟩ bindHandler s)

/-- LISTEN, past its checks (R148). -/
def listenHandler (s : State) : State :=
  arm { s with peerAddr := 0, hsNxt := 0, linger := false, connState := .listen }

/-- LISTEN: SOCK_OPEN = 1 and CLOSED; configured (R145, R148). -/
def execListen (s : State) : Host.Outcome State Fault Refusal :=
  .next (runCmd ⟨false, s.sockOpen && s.connState == .closed, s.cfgValid, true⟩ listenHandler s)

/-- CONNECT once a socket is open (R149): the SYN goes to the new peer. -/
def connectOpen (s : State) : State :=
  let s1 := clearSender { s with peerAddr := opAddr s, linger := false }
  arm { emit (synPkt s1) .hs s1 with connState := .synSent }

/-- CONNECT, past its checks: opens a socket first when none is open (R149, R275). -/
def connectHandler (s : State) : State :=
  if s.sockOpen then connectOpen s
  else
    match s.answer.openSocket with
    | .ok e => connectOpen { s with sockOpen := true, localAddr := tagOf s.params e }
    | .resource => setCode .errResource s

/-- CONNECT: CLOSED; configured; address in range (R145, R149). -/
def execConnect (s : State) : Host.Outcome State Fault Refusal :=
  .next (runCmd ⟨false, s.connState == .closed, s.cfgValid, addrInRange s⟩ connectHandler s)

/-- CLOSE, past its checks (R150). -/
def closeHandler (s : State) : State :=
  let s1 := disarm { s with sockOpen := false, connState := .closed, xfer := .idle, linger := false }
  pulseXferReset { clearSender s1 with exp := 0, rxBuf := [], ooo := [], rxOvf := false }

/-- CLOSE: accepted in every state, BUSY included (R145, R150). -/
def execClose (s : State) : Host.Outcome State Fault Refusal :=
  .next (runCmd ⟨true, true, true, true⟩ closeHandler s)

/-- WRTX, past its checks (R151). -/
def wrtxHandler (s : State) : State :=
  { s with txMem := insertKey (opByteAddr s) (opByte s) s.txMem }

/-- WRTX: refused while BUSY = 1; a < TX_CAP (R145, R151). -/
def execWrtx (s : State) : Host.Outcome State Fault Refusal :=
  .next (runCmd ⟨false, true, true, txAddrInRange s⟩ wrtxHandler s)

/-- RDRX, past its checks (R152). -/
def rdrxHandler (s : State) : State :=
  { s with result := (delivByte s (opByteAddr s)).setWidth 32 }

/-- RDRX: allowed while BUSY = 1; a < DELIV_LEN, else ERR_RANGE and `RESULT <- 0` (R140, R152). -/
def execRdrx (s : State) : Host.Outcome State Fault Refusal :=
  let c : CmdCheck := ⟨true, true, true, delivAddrInRange s⟩
  .next
    (if checkCmd c s = .ok then runCmd c rdrxHandler s
     else runCmd c rdrxHandler { s with result := 0 })

/-! ## Server handshake (R155 to R160) -/

/-- LISTEN, a SYN arrives from the tag on the RX port (R155). -/
def synInListen (p : Packet) (s : State) : State :=
  let s1 := { s with peerAddr := s.rxSrc, hsNxt := p.seq + 1 }
  arm { emit (synackPkt s1) .hs s1 with connState := .synReceived }

/-- SYN_RECEIVED, a packet of class ACK arrives: the connection is accepted (R158). -/
def ackInSynReceived (s : State) : State :=
  finish .ok (disarm { s with connState := .established })

/-- SYN_RECEIVED, the timer expires: the half-open attempt is discarded (R160). -/
def expireSynReceived (s : State) : State :=
  arm { s with peerAddr := 0, hsNxt := 0, connState := .listen }

/-! ## Client handshake (R161 to R163) -/

/-- SYN_SENT, the SYN-ACK arrives (R161). -/
def synackInSynSent (p : Packet) (s : State) : State :=
  let s1 := { s with hsNxt := p.seq + 1 }
  finish .ok (disarm { emit (hsackPkt s1) .hs s1 with connState := .established })

/-- SYN_SENT, the timer expires: the attempt fails (R163). -/
def expireSynSent (s : State) : State :=
  finish .connectFail (disarm { s with connState := .closed })

/-! ## Teardown (R164 to R168) -/

/-- `BeginTeardown()` (R164): XFER keeps its value. -/
def beginTeardown (s : State) : State :=
  arm { emit (finPkt s) .data s with connState := .closing }

/-- CLOSING, the FIN-ACK arrives: SEND completes (R165). -/
def finackInClosing (s : State) : State :=
  let s1 := disarm { s with sockOpen := false, connState := .closed, xfer := .idle }
  finish .ok (pulseXferReset (clearSender s1))

/-- CLOSING, the timer expires: the FIN is resent (R167). -/
def expireClosing (s : State) : State :=
  arm (pushHook (.finRetx s.txLen) (emit (finPkt s) .data s))

/-- Linger, a duplicate FIN arrives (R168). -/
def finInLinger (p : Packet) (s : State) : State := emit (finackPkt s p.seq) .data s

end Sys2Proof.Machine
end

