-- ==== Sys2Proof/Machine/Receiver.lean ====
section
/-! DEFINITION. The receiver engine (spec/43_receiver.md): RECV, the reassembly buffer, duplicate
detection, the FIN and delivery. -/

namespace Sys2Proof.Machine

/-! ## RECV -/

/-- The conditions of RECV (R145). -/
def recvCheck (s : State) : CmdCheck :=
  ⟨false, s.connState == .established, s.cfgValid, true⟩

/-- RECV, past its checks (R230). -/
def beginRecv (x : Xfer) (s : State) : State :=
  { disarm s with exp := 0, rxBuf := [], ooo := [], rxOvf := false, linger := false, xfer := x }

/-- RECV.SAW (R230). -/
def execRecvSaw (s : State) : Host.Outcome State Fault Refusal :=
  .next (runCmd (recvCheck s) (beginRecv .recvSaw) s)

/-- RECV.GBN (R230). -/
def execRecvGbn (s : State) : Host.Outcome State Fault Refusal :=
  .next (runCmd (recvCheck s) (beginRecv .recvGbn) s)

/-- RECV.SR (R230). -/
def execRecvSr (s : State) : Host.Outcome State Fault Refusal :=
  .next (runCmd (recvCheck s) (beginRecv .recvSr) s)

/-! ## Data branches (R232 to R238) -/

/-- The receiver buffers out-of-order packets: SR under policy BUFFER (R231, R232). -/
def buffersOoo (s : State) : Bool := s.xfer == .recvSr && s.params.oooPolicy == .buffer

/-- The payload length as a u32 (ACK values are taken mod 2^32). -/
def payloadLen (p : Packet) : Word := BitVec.ofNat 32 p.payload.length

/-- `s + l` of a data packet, the value of a selective or duplicate ACK (R232, R235 to R237). -/
def packetEnd (p : Packet) : Word := p.seq + payloadLen p

/-- The capacity test of `StoreRx` (R238). -/
def fitsRx (p : Packet) (s : State) : Bool := rxBytes s + p.payload.length ≤ s.params.rxCap

/-- The store of `StoreRx` when the packet fits (R238). -/
def storeRx (p : Packet) (s : State) : State :=
  { s with rxBuf := insertKey p.seq.toNat p.payload s.rxBuf }

/-- The moves of `Merge()` (R233): each takes one entry out of OOO, so no more than |OOO| happen. -/
def mergeRounds : Nat → State → State
  | 0, s => s
  | n + 1, s =>
    match lookupKey s.exp.toNat s.ooo with
    | none => s
    | some q =>
      mergeRounds n
        { s with
          ooo := eraseKey s.exp.toNat s.ooo
          rxBuf := insertKey s.exp.toNat q s.rxBuf
          exp := s.exp + BitVec.ofNat 32 q.length }

/-- The end of `Merge()` (R233): stale entries below EXP are deleted. -/
def dropStale (s : State) : State :=
  { s with ooo := s.ooo.filter (fun e => decide (s.exp.toNat ≤ e.1)) }

/-- `Merge()` (R233). -/
def merge (s : State) : State := dropStale (mergeRounds s.ooo.length s)

/-- In order, `s = EXP` (R232). -/
def dataInOrder (p : Packet) (s : State) : State :=
  if fitsRx p s then
    let s1 := storeRx p s
    let s2 := { s1 with exp := s1.exp + payloadLen p }
    let s3 := if buffersOoo s2 then merge s2 else s2
    let a := if s3.xfer = .recvSr then packetEnd p else s3.exp
    emit (dackPkt s3 a) .data s3
  else { s with rxOvf := true }

/-- Out of order under SR with policy BUFFER (R235). -/
def dataBuffered (p : Packet) (s : State) : State :=
  if hasKey p.seq.toNat s.ooo then emit (dackPkt s (packetEnd p)) .data s
  else if s.ooo.length < s.params.oooSlots ∧ fitsRx p s = true then
    let s1 := { s with ooo := insertKey p.seq.toNat p.payload s.ooo }
    emit (dackPkt s1 (packetEnd p)) .data s1
  else s

/-- Below EXP (R236, R237): acknowledged in any case, stored only when not recorded and if it
fits. -/
def dataDuplicate (p : Packet) (s : State) : State :=
  if hasKey p.seq.toNat s.rxBuf then emit (dackPkt s (packetEnd p)) .data s
  else
    let s1 := if fitsRx p s then storeRx p s else { s with rxOvf := true }
    emit (dackPkt s1 (packetEnd p)) .data s1

/-- A data packet in RECV_x (R231). -/
def dataInRecv (p : Packet) (s : State) : State :=
  if p.seq = s.exp then dataInOrder p s
  else if s.exp < p.seq then
    if buffersOoo s then dataBuffered p s else s
  else dataDuplicate p s

/-- A packet of class ACK or NONE in RECV_x: data when it has a payload, else ignored (R231,
R241). -/
def ackOrNoneInRecv (p : Packet) (s : State) : State :=
  if p.payload = [] then ignorePacket s else dataInRecv p s

/-! ## FIN and delivery (R239, R240) -/

/-- RXBUF flattened in ascending offset order (R240). -/
def flatten (m : OffsetMap (List Byte)) : List Byte := (m.map (fun e => e.2)).flatten

/-- `Deliver()` (R240). -/
def deliver (s : State) : State :=
  let d := flatten s.rxBuf
  { s with deliv := writeBytes 0 d s.deliv, delivLen := BitVec.ofNat 32 d.length }

/-- The FIN arrives in RECV_x: RECV completes (R239). -/
def finInRecv (p : Packet) (s : State) : State :=
  let s1 := deliver (emit (finackPkt s p.seq) .data s)
  let s2 :=
    { s1 with
      rxBuf := []
      ooo := []
      exp := 0
      connState := .closed
      xfer := .idle
      linger := true }
  finish (if s.rxOvf then .rxOverflow else .ok) (pulseXferReset s2)

end Sys2Proof.Machine
end

