-- ==== Sys2Proof/Machine/Sender.lean ====
section
/-! DEFINITION. The sender engines (spec/42_sender.md): SEND, chunking, the send buffer, and the
three retransmission policies. -/

namespace Sys2Proof.Machine

/-! ## Shared procedures (R190 to R194) -/

/-- `clen(o)` (R192). -/
def chunkLen (s : State) (o : Nat) : Nat := min s.cfgMps.toNat (s.txLen.toNat - o)

/-- `chunk(o)` (R192). -/
def chunk (s : State) (o : Nat) : List Byte := txRead s o (chunkLen s o)

/-- The datagram `SendChunk` makes for offset `o` (R123, R193). -/
def chunkDatagram (s : State) (o : Nat) : List Byte := dataPkt s (BitVec.ofNat 32 o) (chunk s o)

/-- `SendChunk()` (R193). -/
def sendChunk (s : State) : State :=
  let o := s.nxt.toNat
  let l := chunkLen s o
  let dg := chunkDatagram s o
  { emit dg .data s with
    sndBuf := insertKey o { len := BitVec.ofNat 16 l, dg } s.sndBuf
    nxt := s.nxt + BitVec.ofNat 32 l }

/-- `Retransmit(k)` of an entry of SNDBUF (R194): the stored datagram, unchanged. -/
def retransmit (k : Nat) (e : SndEntry) (s : State) : State :=
  pushHook (.retx k) (emit e.dg .data s)

/-- `Retransmit(minkey(SNDBUF))`; SNDBUF is not empty where the rules call it (log entry 9). -/
def retransmitHead (s : State) : State :=
  match s.sndBuf with
  | [] => s
  | (k, e) :: _ => retransmit k e s

/-- `Retransmit(k)` for the listed entries, in order (R203). -/
def retransmitAll : List (Nat × SndEntry) → State → State
  | [], s => s
  | (k, e) :: t, s => retransmitAll t (retransmit k e s)

/-- `delete SNDBUF[k]` (R196, R201, R206). -/
def dropEntry (k : Nat) (s : State) : State := { s with sndBuf := eraseKey k s.sndBuf }

/-- The rounds of `FillWindow()` (R199), at most as many as the fuel. -/
def fillRounds : Nat → State → State
  | 0, s => s
  | n + 1, s =>
    if s.sndBuf.length < s.cfgWin.toNat ∧ s.nxt < s.txLen then fillRounds n (sendChunk s) else s

/-- `FillWindow()` (R199). A round sends at least one byte, so no more rounds than unsent bytes can
happen. -/
def fillWindow (s : State) : State := fillRounds (s.txLen.toNat - s.nxt.toNat) s

/-! ## SEND -/

/-- The conditions of SEND (R145). -/
def sendCheck (s : State) : CmdCheck :=
  ⟨false, s.connState == .established, s.cfgValid, lenInRange s⟩

/-- The opening of every SEND (R190). -/
def beginSend (x : Xfer) (s : State) : State :=
  { s with txLen := opLen s, nxt := 0, sndBuf := [], xfer := x }

/-- `SawStart()` (R195). -/
def sawStart (s : State) : State :=
  if s.txLen = 0 then beginTeardown s else arm (sendChunk s)

/-- `GbnStart()` (R200). -/
def gbnStart (s : State) : State :=
  if s.txLen = 0 then beginTeardown s else arm (fillWindow s)

/-- `SrStart()` (R204). -/
def srStart (s : State) : State :=
  if s.txLen = 0 then beginTeardown s else arm (fillWindow s)

/-- SEND.SAW (R190). -/
def execSendSaw (s : State) : Host.Outcome State Fault Refusal :=
  .next (runCmd (sendCheck s) (fun s => sawStart (beginSend .sendSaw s)) s)

/-- SEND.GBN (R190). -/
def execSendGbn (s : State) : Host.Outcome State Fault Refusal :=
  .next (runCmd (sendCheck s) (fun s => gbnStart (beginSend .sendGbn s)) s)

/-- SEND.SR (R190). -/
def execSendSr (s : State) : Host.Outcome State Fault Refusal :=
  .next (runCmd (sendCheck s) (fun s => srStart (beginSend .sendSr s)) s)

/-! ## Stop-and-Wait (R196 to R198) -/

/-- SAW, after the matching ACK removed the entry (R196). -/
def sawAdvance (s : State) : State :=
  if s.nxt < s.txLen then arm (sendChunk s) else beginTeardown s

/-- SAW, a packet of class ACK arrives: the match is exact, `ack = k + len` (R196, R197). -/
def ackInSaw (p : Packet) (s : State) : State :=
  match s.sndBuf with
  | [] => ignorePacket s
  | (k, e) :: _ =>
    if p.ack.toNat = k + e.len.toNat then sawAdvance (dropEntry k s) else ignorePacket s

/-- SAW, the timer expires (R198). -/
def expireSaw (s : State) : State := arm (retransmitHead s)

/-! ## Go-Back-N (R201 to R203) -/

/-- GBN, after the ACK for the oldest packet removed it (R201). -/
def gbnAdvance (s : State) : State :=
  let s1 := fillWindow s
  if sendDone s1 then beginTeardown s1 else arm s1

/-- GBN, a packet of class ACK arrives: only `ack = m + len` of the oldest entry matches (R201,
R202). -/
def ackInGbn (p : Packet) (s : State) : State :=
  match s.sndBuf with
  | [] => ignorePacket s
  | (m, e) :: _ =>
    if p.ack.toNat = m + e.len.toNat then gbnAdvance (dropEntry m s) else ignorePacket s

/-- GBN, the timer expires: every entry, in ascending order (R203). -/
def expireGbn (s : State) : State := arm (retransmitAll s.sndBuf s)

/-! ## Selective-Repeat (R205 to R209) -/

/-- `SrAcked(a)` (R205): the offset an ACK value names, or NONE, by the rule's pseudocode (log
entry 10). -/
def srAcked (s : State) (a : Word) : Option Nat :=
  if 0 < s.txLen.toNat ∧ a = s.txLen then
    some ((s.txLen.toNat - 1) / s.cfgMps.toNat * s.cfgMps.toNat)
  else if s.cfgMps.toNat ≤ a.toNat then some (a.toNat - s.cfgMps.toNat)
  else none

/-- SR, after a hit removed an entry; the timer restarts only if that was the head (R206). -/
def srAdvance (wasHead : Bool) (s : State) : State :=
  let s1 := fillWindow s
  if sendDone s1 then beginTeardown s1
  else if wasHead then arm s1
  else s1

/-- `k = minkey(SNDBUF)` (R206). -/
def isHead (k : Nat) (m : OffsetMap SndEntry) : Bool :=
  match m with
  | [] => false
  | (a, _) :: _ => k == a

/-- SR, a packet of class ACK arrives: a hit (R206) or a miss, which has no effect (R208). -/
def ackInSr (p : Packet) (s : State) : State :=
  match srAcked s p.ack with
  | none => ignorePacket s
  | some k =>
    if hasKey k s.sndBuf then srAdvance (isHead k s.sndBuf) (dropEntry k s) else ignorePacket s

/-- SR, the timer expires: only the head is resent (R209). -/
def expireSr (s : State) : State := arm (retransmitHead s)

end Sys2Proof.Machine
end

