-- ==== Sys2Proof/Machine/Packets.lean ====
section
/-! DEFINITION. The meaning of each wire row of the opcode table: what a received packet of that
class does in each state, spec/41_lifecycle.md R142. "Ignored" is `RestartWait()` alone, which
changes nothing in SEND_SR, RECV_* and linger (R144). -/

namespace Sys2Proof.Machine

/-- A packet of class SYN: accepted in LISTEN (R155), ignored elsewhere. -/
def onSyn (p : Packet) (s : State) : State :=
  match s.connState with
  | .listen => synInListen p s
  | .synReceived => ignorePacket s
  | .synSent => ignorePacket s
  | .closing => ignorePacket s
  | .closed => ignorePacket s
  | .established => ignorePacket s

/-- PKT.SYN. -/
def execPktSyn (p : Packet) (s : State) : Host.Outcome State Fault Refusal :=
  .next (whenReady (onSyn p) s)

/-- A packet of class SYNACK: ends SYN_SENT (R161), ignored elsewhere. -/
def onSynack (p : Packet) (s : State) : State :=
  match s.connState with
  | .listen => ignorePacket s
  | .synReceived => ignorePacket s
  | .synSent => synackInSynSent p s
  | .closing => ignorePacket s
  | .closed => ignorePacket s
  | .established => ignorePacket s

/-- PKT.SYNACK. -/
def execPktSynack (p : Packet) (s : State) : Host.Outcome State Fault Refusal :=
  .next (whenReady (onSynack p) s)

/-- A packet of class ACK in ESTABLISHED: an acknowledgement for a sender, whatever its payload; data
for a receiver when it has a payload (42_sender.md preamble, R231). -/
def ackInEstablished (p : Packet) (s : State) : State :=
  match s.xfer with
  | .idle => s
  | .sendSaw => ackInSaw p s
  | .sendGbn => ackInGbn p s
  | .sendSr => ackInSr p s
  | .recvSaw => ackOrNoneInRecv p s
  | .recvGbn => ackOrNoneInRecv p s
  | .recvSr => ackOrNoneInRecv p s

/-- A packet of class ACK (R158, R196, R201, R206, R231). -/
def onAck (p : Packet) (s : State) : State :=
  match s.connState with
  | .listen => ignorePacket s
  | .synReceived => ackInSynReceived s
  | .synSent => ignorePacket s
  | .closing => ignorePacket s
  | .closed => ignorePacket s
  | .established => ackInEstablished p s

/-- PKT.ACK. -/
def execPktAck (p : Packet) (s : State) : Host.Outcome State Fault Refusal :=
  .next (whenReady (onAck p) s)

/-- A packet of class NONE: data for a receiver when it has a payload (R231), ignored otherwise
(R94). -/
def onNone (p : Packet) (s : State) : State :=
  match s.connState with
  | .listen => ignorePacket s
  | .synReceived => ignorePacket s
  | .synSent => ignorePacket s
  | .closing => ignorePacket s
  | .closed => ignorePacket s
  | .established => if s.xfer.isRecv then ackOrNoneInRecv p s else ignorePacket s

/-- PKT.NONE. -/
def execPktNone (p : Packet) (s : State) : Host.Outcome State Fault Refusal :=
  .next (whenReady (onNone p) s)

/-- A packet of class FIN: completes RECV (R239), is answered in linger (R168), ignored
elsewhere. -/
def onFin (p : Packet) (s : State) : State :=
  match s.connState with
  | .listen => ignorePacket s
  | .synReceived => ignorePacket s
  | .synSent => ignorePacket s
  | .closing => ignorePacket s
  | .closed => finInLinger p s
  | .established => if s.xfer.isRecv then finInRecv p s else ignorePacket s

/-- PKT.FIN. -/
def execPktFin (p : Packet) (s : State) : Host.Outcome State Fault Refusal :=
  .next (whenReady (onFin p) s)

/-- A packet of class FINACK: ends CLOSING (R165), ignored elsewhere. -/
def onFinack (_p : Packet) (s : State) : State :=
  match s.connState with
  | .listen => ignorePacket s
  | .synReceived => ignorePacket s
  | .synSent => ignorePacket s
  | .closing => finackInClosing s
  | .closed => ignorePacket s
  | .established => ignorePacket s

/-- PKT.FINACK. -/
def execPktFinack (p : Packet) (s : State) : Host.Outcome State Fault Refusal :=
  .next (whenReady (onFinack p) s)

/-- PKT.INVALID.SYNFIN: consumed and ignored in every state (R94). -/
def execPktInvalidSynfin (_p : Packet) (s : State) : Host.Outcome State Fault Refusal :=
  .next (whenReady ignorePacket s)

/-- PKT.INVALID.SYNACKFIN: consumed and ignored in every state (R94). -/
def execPktInvalidSynackfin (_p : Packet) (s : State) : Host.Outcome State Fault Refusal :=
  .next (whenReady ignorePacket s)

end Sys2Proof.Machine
end

