-- ==== Sys2Proof/Machine/Dispatch.lean ====
section
/-! DEFINITION. One arm per row of spec/opcode_table.json, each one call of that row's meaning. -/

namespace Sys2Proof.Machine

def exec (i : Instr) (s : State) : Host.Outcome State Fault Refusal :=
  match i with
  | .configure => Sys2Proof.Machine.execConfigure s
  | .bind => Sys2Proof.Machine.execBind s
  | .listen => Sys2Proof.Machine.execListen s
  | .connect => Sys2Proof.Machine.execConnect s
  | .sendSaw => Sys2Proof.Machine.execSendSaw s
  | .sendGbn => Sys2Proof.Machine.execSendGbn s
  | .sendSr => Sys2Proof.Machine.execSendSr s
  | .recvSaw => Sys2Proof.Machine.execRecvSaw s
  | .recvGbn => Sys2Proof.Machine.execRecvGbn s
  | .recvSr => Sys2Proof.Machine.execRecvSr s
  | .close => Sys2Proof.Machine.execClose s
  | .wrtx => Sys2Proof.Machine.execWrtx s
  | .rdrx => Sys2Proof.Machine.execRdrx s
  | .pktSyn p => Sys2Proof.Machine.execPktSyn p s
  | .pktSynack p => Sys2Proof.Machine.execPktSynack p s
  | .pktAck p => Sys2Proof.Machine.execPktAck p s
  | .pktNone p => Sys2Proof.Machine.execPktNone p s
  | .pktFin p => Sys2Proof.Machine.execPktFin p s
  | .pktFinack p => Sys2Proof.Machine.execPktFinack p s
  | .pktInvalidSynfin p => Sys2Proof.Machine.execPktInvalidSynfin p s
  | .pktInvalidSynackfin p => Sys2Proof.Machine.execPktInvalidSynackfin p s

end Sys2Proof.Machine
end

