-- ==== Sys2Proof/Machine/Events.lean ====
section
/-! DEFINITION. The input events (spec/00_scope.md R8): host bus accesses (spec/20_memory.md R64,
spec/10_state.md R28), the CMD event (spec/41_lifecycle.md R140), the RX event (R142), TICK
(spec/60_exceptions.md R266) and RESET (spec/70_reset_and_hazards.md R300). -/

namespace Sys2Proof.Machine

/-! ## Host bus -/

/-- A host write to CMD: the CMD event (R23, R140). -/
def cmdEvent (w : Word) (s : State) : Host.Outcome State Fault Refusal :=
  match decodeCmd w with
  | .ok i => exec i s
  | .error r => .next (refuseWord r s)

/-- A host write to any address but CMD: ARG0 to ARG3 are replaced whole, every other write is
ignored, a misaligned one included (R28, R64). -/
def regWrite (a d : Word) (s : State) : State :=
  if a = 0x04 then { s with arg0 := d }
  else if a = 0x08 then { s with arg1 := d }
  else if a = 0x0C then { s with arg2 := d }
  else if a = 0x10 then { s with arg3 := d }
  else s

/-- A host write (R28, R64), with the oracle answers that stand on the side ports (R275). -/
def hostWriteEvent (a d : Word) (ans : EnvAnswer) (s : State) :
    Host.Outcome State Fault Refusal :=
  if a = 0x00 then cmdEvent d { s with answer := ans } else .next (regWrite a d s)

/-- The register map, as the host reads it (R28); unmapped and misaligned addresses read as 0. -/
def regRead (a : Word) (s : State) : Word :=
  if a = 0x04 then s.arg0
  else if a = 0x08 then s.arg1
  else if a = 0x0C then s.arg2
  else if a = 0x10 then s.arg3
  else if a = 0x14 then statusWord s
  else if a = 0x18 then s.result
  else if a = 0x1C then s.delivLen
  else if a = 0x20 then s.cfgWin ++ s.cfgMps
  else if a = 0x24 then s.cfgRto
  else if a = 0x28 then s.cfgLossP
  else if a = 0x2C then BitVec.ofBool s.cfgVerbose ++ s.cfgLossMax
  else if a = 0x30 then s.hsNxt
  else if a = 0x34 then s.txLen
  else if a = 0x38 then s.nxt
  else if a = 0x3C then s.exp
  else if a = 0x40 then (BitVec.ofNat 16 s.sndBuf.length).setWidth 32
  else if a = 0x44 then s.tmr
  else if a = 0x48 then (tagOf s.params s.peerAddr).extractLsb' 0 32
  else if a = 0x4C then (tagOf s.params s.peerAddr).extractLsb' 32 32
  else if a = 0x50 then (tagOf s.params s.localAddr).extractLsb' 0 32
  else if a = 0x54 then (tagOf s.params s.localAddr).extractLsb' 32 32
  else 0

/-- A host read: the word on the bus; no side effect (R64, R67). -/
def hostReadEvent (a : Word) (s : State) : State :=
  { s with out := { s.out with busData := some (regRead a s) } }

/-! ## RX -/

/-- The RX event (R142). While `rx_ready` = 0 it cannot happen: the datagram stays with the
environment and RTE does nothing (R141, log entry 2). A byte string longer than R110 allows is no
datagram, so no RX event brings it; it is passed over in the same way (log entry 2). -/
def rxEvent (dg : List Byte) (src : Addr) (s : State) : Host.Outcome State Fault Refusal :=
  if rxReady s && isDatagram dg then
    match decodeWire s.params dg with
    | .ok i => exec i { s with rxSrc := tagOf s.params src }
    | .error e => .next (dropMalformed e.len s)
  else .next s

/-! ## TICK -/

/-- `Expire()` (R143). In the states it does not list the timer is disarmed (R170), so it is never
called there; it does nothing there (log entry 9). -/
def expire (s : State) : State :=
  match s.connState with
  | .listen => arm s
  | .synReceived => expireSynReceived s
  | .synSent => expireSynSent s
  | .closing => expireClosing s
  | .closed => s
  | .established =>
    match s.xfer with
    | .idle => s
    | .sendSaw => expireSaw s
    | .sendGbn => expireGbn s
    | .sendSr => expireSr s
    | .recvSaw => s
    | .recvGbn => s
    | .recvSr => s

/-- TICK (R266). -/
def tickEvent (s : State) : State :=
  if s.tmrArmed then
    let s1 := { s with tmr := s.tmr - 1 }
    if s1.tmr = 0 then expire (pushHook (.timeout s1.connState s1.xfer) (disarm s1)) else s1
  else s

/-! ## RESET -/

/-- RESET (R300): every register, buffer and map takes its reset value; both memories hold new
unspecified bytes; nothing is emitted. Parameters, the instance's number and what belongs to the
environment stay. -/
def resetEvent (s : State) : State :=
  { State.reset with
    params := s.params
    unit := s.unit
    resets := s.resets + 1
    answer := s.answer
    rxSrc := s.rxSrc
    inputs := s.inputs }

/-! ## One event -/

/-- The step of one event (R8). -/
def eventStep (e : Event) (s : State) : Host.Outcome State Fault Refusal :=
  match e with
  | .hostWrite a d ans => hostWriteEvent a d ans s
  | .hostRead a => .next (hostReadEvent a s)
  | .rx dg src => rxEvent dg src s
  | .tick => .next (tickEvent s)
  | .reset => .next (resetEvent s)

/-- The state a step starts from: the event is taken from the environment and the output ports are
empty (R45). -/
def beginStep (rest : List Event) (s : State) : State :=
  { s with inputs := rest, out := StepOutput.none }

/-- The state with `rx_ready` = 1 in which a datagram can be presented: unchanged if it is ready
already, else with as little changed as R141 needs (log entry 4). -/
def makeRxReady (s : State) : State :=
  if rxReady s then s
  else
    match s.connState with
    | .listen => { s with sockOpen := true }
    | .synSent => { s with sockOpen := true }
    | .synReceived => { s with sockOpen := true }
    | .closing => { s with sockOpen := true }
    | .closed => { s with sockOpen := true, linger := true }
    | .established =>
      { s with sockOpen := true, xfer := if s.xfer = .idle then .recvSaw else s.xfer }

end Sys2Proof.Machine
end

