-- ==== Sys2Proof/Machine/Step.lean ====
section
/-! DEFINITION. One step of the machine: the next event the environment presents, or nothing when it
presents none (spec/00_scope.md R8; spec/70_reset_and_hazards.md R302: RTE fetches nothing and
starts nothing by itself). -/

namespace Sys2Proof.Machine

/-- One step: one event (R8, R268). With no event pending RTE stays as it is and emits nothing. -/
def step (s : State) : Host.Outcome State Fault Refusal :=
  match s.inputs with
  | [] => .next (beginStep [] s)
  | e :: rest => eventStep e (beginStep rest s)

/-- `s` with the opcode table's word presented as the very next event: a 32-bit row is a host write
to CMD, a 16-bit row the arrival of the datagram with that flags word, for which `rx_ready` must
be 1 (log entry 4). -/
def State.withFetchWord (s : State) (nbits w : Nat) : State :=
  if nbits = 32 then
    { s with inputs := .hostWrite 0 (BitVec.ofNat 32 w) s.answer :: s.inputs }
  else if nbits = 16 then
    { makeRxReady s with inputs := .rx (tableDatagram w) s.rxSrc :: s.inputs }
  else s

end Sys2Proof.Machine
end

