-- ==== Sys2Proof/Machine/Assembler.lean ====
section
/-! DEFINITION. Host programs: the assembler and its pseudo-instructions (spec/30_encoding.md R85 and
R86), how a host goes through a program, and the boot sequences (spec/70_reset_and_hazards.md R302).
It is the environment's side, which `step` does not use (log entry 8). -/

namespace Sys2Proof.Machine

/-! ## What a host does -/

/-- What is left of a host program: bus accesses, and the pseudo-instructions whose accesses depend
on what the host reads. -/
inductive HostStep where
  /-- One bus write, with the oracle answers that stand on the side ports then (R275). -/
  | write (addr data : Word) (ans : EnvAnswer)
  /-- One bus read. -/
  | read (addr : Word)
  /-- `WAIT`: reads STATUS until BUSY = 0. -/
  | wait
  /-- `EXPECT`: reads a register and compares its bits under the mask with the value. -/
  | expect (addr mask value : Word)
  /-- `READRX 0, DELIV_LEN`: reads DELIV_LEN, then each delivered byte. -/
  | readAll (ans : EnvAnswer)
deriving DecidableEq, Repr

/-- The bus access a host step begins with. -/
def HostStep.event : HostStep → Event
  | .write a d ans => .hostWrite a d ans
  | .read a => .hostRead a
  | .wait => .hostRead 0x14
  | .expect a _ _ => .hostRead a
  | .readAll _ => .hostRead 0x1C

/-- A host step that issues a command, now or by what it reads (`READRX` of delivered bytes). -/
def HostStep.issuesCommand : HostStep → Bool
  | .write a _ _ => a == 0x00
  | .read _ => false
  | .wait => false
  | .expect _ _ _ => false
  | .readAll _ => true

/-! ## The assembler -/

/-- The protocol suffix of SEND and RECV. -/
inductive Proto where
  | saw
  | gbn
  | sr
deriving DecidableEq, Repr

/-- One line of a host program: the commands of R85 and the pseudo-instructions of R86. -/
inductive HostLine where
  | configure (mps win : Half) (rto lossP : Word) (lossMax : BitVec 31) (verbose : Bool)
  | bind (addr : Addr)
  | listen
  | connect (addr : Addr)
  | send (proto : Proto) (len : Word)
  | recv (proto : Proto)
  | close
  | wrtx (a b : Word)
  | rdrx (a : Word)
  | loadtx (a : Word) (bs : List Byte)
  | readrx (a : Word) (n : Nat)
  | readrxAll
  | wait
  | expect (addr mask value : Word)
deriving DecidableEq, Repr

/-- The instruction of SEND under a protocol. -/
def Proto.sendInstr : Proto → Instr
  | .saw => .sendSaw
  | .gbn => .sendGbn
  | .sr => .sendSr

/-- The instruction of RECV under a protocol. -/
def Proto.recvInstr : Proto → Instr
  | .saw => .recvSaw
  | .gbn => .recvGbn
  | .sr => .recvSr

/-- The writes of ARG0, ARG1, … with the given words, in that order, then the write of a command's
word to CMD. -/
def commandWrites (ans : EnvAnswer) (args : List Word) (i : Instr) : List HostStep :=
  ([0x04, 0x08, 0x0C, 0x10].zip args).map (fun x => .write x.1 x.2 ans) ++
    match encode i with
    | .cmd w => [.write 0x00 w ans]
    | .wire _ => []

/-- `WRTX a, b`. -/
def wrtxWrites (ans : EnvAnswer) (a b : Word) : List HostStep := commandWrites ans [a, b] .wrtx

/-- `LOADTX a, bs`: `WRTX a+i, bs[i]` in order (R86). DESIGN CHOICE: an address a+i past 2^32 − 1, which
ARG0 cannot hold, wraps to 0 (log entry 8). -/
def loadtxWrites (ans : EnvAnswer) (a : Word) : List Byte → List HostStep
  | [] => []
  | b :: bs => wrtxWrites ans a (b.setWidth 32) ++ loadtxWrites ans (a + 1) bs

/-- `READRX a, n`: for each byte `RDRX`, then a host read of RESULT (R86). DESIGN CHOICE: an address a+i
past 2^32 − 1 wraps to 0 (log entry 8). -/
def readrxAccesses (ans : EnvAnswer) (a : Word) : Nat → List HostStep
  | 0 => []
  | n + 1 => commandWrites ans [a] .rdrx ++ .read 0x18 :: readrxAccesses ans (a + 1) n

/-- The host steps of one line. -/
def HostLine.assemble (ans : EnvAnswer) : HostLine → List HostStep
  | .configure mps win rto lossP lossMax verbose =>
    commandWrites ans [win ++ mps, rto, lossP, BitVec.ofBool verbose ++ lossMax] .configure
  | .bind addr => commandWrites ans [addr.extractLsb' 0 32, addr.extractLsb' 32 32] .bind
  | .listen => commandWrites ans [] .listen
  | .connect addr => commandWrites ans [addr.extractLsb' 0 32, addr.extractLsb' 32 32] .connect
  | .send proto len => commandWrites ans [len] proto.sendInstr
  | .recv proto => commandWrites ans [] proto.recvInstr
  | .close => commandWrites ans [] .close
  | .wrtx a b => wrtxWrites ans a b
  | .rdrx a => commandWrites ans [a] .rdrx
  | .loadtx a bs => loadtxWrites ans a bs
  | .readrx a n => readrxAccesses ans a n
  | .readrxAll => [.readAll ans]
  | .wait => [.wait]
  | .expect a m v => [.expect a m v]

/-- What ends a `WAIT`: the STATUS word the host has read shows BUSY = 0 (R86). -/
def waitOver (status : Word) : Bool := !status.getLsbD 4

/-- What a host step leaves to do once its bus access has given `data` (nothing for a write): `WAIT`
stays while BUSY = 1, and an `EXPECT` that fails ends the program, which is `none`. -/
def HostStep.after (h : HostStep) (data : Option Word) : Option (List HostStep) :=
  match h with
  | .write _ _ _ => some []
  | .read _ => some []
  | .wait => if data.elim false waitOver then some [] else some [.wait]
  | .expect _ m v => if data.elim false (fun d => d &&& m == v &&& m) then some [] else none
  | .readAll ans => some (readrxAccesses ans 0 (data.elim 0 BitVec.toNat))

/-- A whole program's host steps. -/
def assembleAll (ans : EnvAnswer) (lines : List HostLine) : List HostStep :=
  lines.flatMap (HostLine.assemble ans)

/-! ## The boot sequences (R302) -/

/-- "CODE must be OK". -/
def expectOk : HostLine := .expect 0x14 0xF 0x0

/-- The receiving server's program. -/
def serverProgram (config : HostLine) (addr : Addr) (proto : Proto) : List HostLine :=
  [config, expectOk, .bind addr, expectOk, .listen, .wait, expectOk, .recv proto, .wait, expectOk,
    .readrxAll, .close]

/-- The sending client's program, for the bytes `bs`. DESIGN CHOICE: SEND's length is the number of
bytes mod 2^32, since ARG0 cannot hold that of a list of 2^32 bytes or more (log entry 8). -/
def clientProgram (config : HostLine) (addr : Addr) (proto : Proto) (bs : List Byte) :
    List HostLine :=
  [config, expectOk, .loadtx 0 bs, .connect addr, .wait, expectOk,
    .send proto (BitVec.ofNat 32 bs.length), .wait, expectOk]

end Sys2Proof.Machine
end

