-- ==== Sys2Proof/Machine/Env.lean ====
section
/-! DEFINITION. The environment devices whose contracts spec/60_exceptions.md states and which are
not part of RTE (spec/00_scope.md R5): the fault injector (R274), the channel (R273), and two
instances joined by one channel (R272), each with its host's program (spec/70_reset_and_hazards.md
R302) and what a run is over by and leaves to observe (R311). `step` uses none of this; it stands here so that claims about a transfer can be stated over
the machine. What the contracts leave open is DESIGN CHOICE (log entry 8). -/

namespace Sys2Proof.Machine

/-! ## The fault injector (R274) -/

/-- What an injector is built with. `range` is the environment's own reading of CFG_LOSS_P: round(1/p)
of the probability p the word encodes, and 0 for p = 0 (R21, C5; I9 leaves format and rounding to the
environment). `raw` is its source of numbers, seeded or scripted, by the number of the draw. -/
structure LossSource where
  range : Word → Nat
  raw : Nat → Nat

/-- Draw number `n`, in [1, round(1/p)]. -/
def LossSource.draw (src : LossSource) (lossP : Word) (n : Nat) : Nat :=
  src.raw n % src.range lossP + 1

/-- The injector: the remaining loss budget B, `none` until it is first needed or reloaded, and how
many draws it has made. -/
structure Injector where
  budget : Option Nat
  drawn : Nat
deriving DecidableEq, Repr

/-- The injector before any datagram. -/
def Injector.start : Injector := { budget := none, drawn := 0 }

/-- B: the remaining budget, which is initialised from CFG_LOSS_MAX. -/
def Injector.remaining (lossMax : BitVec 31) (inj : Injector) : Nat :=
  inj.budget.getD lossMax.toNat

/-- The budget is reinitialised from CFG_LOSS_MAX. -/
def Injector.reload (lossMax : BitVec 31) (inj : Injector) : Injector :=
  { inj with budget := some lossMax.toNat }

/-- A draw is made for this datagram: never for a handshake datagram, never with p = 0, never out of
budget. -/
def Injector.draws (src : LossSource) (lossP : Word) (lossMax : BitVec 31) (t : TxRecord)
    (inj : Injector) : Bool :=
  t.cls == .data && 0 < src.range lossP && 0 < inj.remaining lossMax

/-- One datagram through the injector. A DATA datagram finds the budget initialised; where a draw is
made, r = 1 drops the datagram and costs one of the budget; every other datagram is transmitted. -/
def Injector.pass (src : LossSource) (lossP : Word) (lossMax : BitVec 31) (t : TxRecord)
    (inj : Injector) : Option TxRecord × Injector :=
  let b := inj.remaining lossMax
  if inj.draws src lossP lossMax t then
    if src.draw lossP inj.drawn = 1 then
      (none, { budget := some (b - 1), drawn := inj.drawn + 1 })
    else (some t, { budget := some b, drawn := inj.drawn + 1 })
  else if t.cls = .data then (some t, { inj with budget := some b })
  else (some t, inj)

/-- Datagrams through the injector, in order. -/
def Injector.passAll (src : LossSource) (lossP : Word) (lossMax : BitVec 31) :
    List TxRecord → Injector → List TxRecord × Injector
  | [], inj => ([], inj)
  | t :: ts, inj =>
    let (o, inj1) := inj.pass src lossP lossMax t
    let (rest, inj2) := Injector.passAll src lossP lossMax ts inj1
    (o.toList ++ rest, inj2)

/-- One step's outputs through the injector (R274, R277): the datagrams, under the configuration RTE
exports, then the `xfer_reset` pulse. -/
def Injector.onStep (src : LossSource) (s : State) (inj : Injector) : List TxRecord × Injector :=
  let (ts, inj1) := inj.passAll src s.cfgLossP s.cfgLossMax s.out.tx
  (ts, if s.out.xferReset then inj1.reload s.cfgLossMax else inj1)

/-! ## The channel (R273) and two instances (R272) -/

/-- A datagram in flight (R110), tagged with its sender's address. -/
structure Flight where
  src : Addr
  dst : Addr
  bytes : List Byte
deriving DecidableEq, Repr

/-- One of the two instances. -/
inductive Side where
  | left
  | right
deriving DecidableEq, Repr

/-- One end of a link: an instance, its injector, and its host's program with what a run leaves
behind. -/
structure Endpoint where
  rte : State
  inj : Injector
  /-- What is left of the host's program. -/
  host : List HostStep
  /-- The program's latest command was accepted, and none was given up to a failed `EXPECT`. -/
  accepted : Bool
  /-- The TX record of the run: every datagram the instance has put on its TX port, in order (R311,
  R45), those that the injector or the channel then loses among them. -/
  sent : List TxRecord
deriving DecidableEq, Repr

/-- Two ends and the channel between them. -/
structure Link where
  left : Endpoint
  right : Endpoint
  flights : List Flight
deriving DecidableEq, Repr

/-- What can happen next on a link, in any interleaving (R269, R272). `host` is the next step of an
end's program, such as one read of STATUS in a `WAIT`; `write` and `read` are any other bus access. A
delivery leaves its datagram in flight, so the channel may deliver it again, in any order; `lose`
takes one away; `forge` puts an arbitrary datagram in, which R110 bounds. -/
inductive LinkEvent where
  | host (side : Side)
  | write (side : Side) (addr data : Word) (ans : EnvAnswer)
  | read (side : Side) (addr : Word)
  | tick (side : Side)
  | reset (side : Side)
  | deliver (side : Side) (n : Nat)
  | lose (n : Nat)
  | forge (f : Flight)
deriving DecidableEq, Repr

/-- An end at the start of a run: the instance numbered `unit` at its reset state, for an
implementation with parameters `P`, and its host's program before it (R302). -/
def Endpoint.start (P : Params) (unit : Nat) (program : List HostStep) : Endpoint :=
  { rte := { State.reset with params := P, unit := unit }
    inj := .start
    host := program
    accepted := true
    sent := [] }

/-- What a run of a host program leaves to observe (R311). -/
structure RunResult where
  status : Word
  result : Word
  delivered : List Byte
  sent : List TxRecord
deriving DecidableEq, Repr

/-- A run of a host program is over: its last command has been accepted and STATUS.BUSY = 0 (R311).
DESIGN CHOICE: a program with no command is over at once (log entry 8). -/
def Endpoint.runOver (e : Endpoint) : Bool :=
  !e.host.any HostStep.issuesCommand && e.accepted && !busy e.rte

/-- The observable result: STATUS, RESULT, DELIV[0..DELIV_LEN) and the TX record (R311). -/
def Endpoint.result (e : Endpoint) : RunResult :=
  { status := statusWord e.rte
    result := e.rte.result
    delivered := (List.range e.rte.delivLen.toNat).map (delivByte e.rte)
    sent := e.sent }

/-- The program of an end goes on after its step `h`, which read `data`, to the steps `rest`. A
command's acceptance shows in CODE, which the command has just written (R140, R261, R262). -/
def Endpoint.goOn (h : HostStep) (data : Option Word) (rest : List HostStep) (e : Endpoint) :
    Endpoint :=
  match h.after data with
  | some more =>
    { e with
      host := more ++ rest
      accepted :=
        match h with
        | .write a _ _ => if a = 0x00 then !e.rte.code.isRefusal else e.accepted
        | .read _ => e.accepted
        | .wait => e.accepted
        | .expect _ _ _ => e.accepted
        | .readAll _ => e.accepted }
  | none => { e with host := [], accepted := e.accepted && !rest.any HostStep.issuesCommand }

namespace Link

/-- The start of a run: both instances at reset, each with draws of its own in its memories, and
nothing in flight (R302). -/
def start (PL PR : Params) (programL programR : List HostStep) : Link :=
  { left := Endpoint.start PL 0 programL, right := Endpoint.start PR 1 programR, flights := [] }

/-- The end on a side. -/
def get (l : Link) : Side → Endpoint
  | .left => l.left
  | .right => l.right

/-- An end replaced. -/
def put (l : Link) (side : Side) (e : Endpoint) : Link :=
  match side with
  | .left => { l with left := e }
  | .right => { l with right := e }

/-- One event at one instance: what it emits goes through its injector into the channel, tagged
with the instance's LOCAL_ADDR. -/
def at_ (src : Side → LossSource) (l : Link) (side : Side) (e : Event) : Link :=
  match eventStep e (beginStep (l.get side).rte.inputs (l.get side).rte) with
  | .next s =>
    let (ts, i) := (l.get side).inj.onStep (src side) s
    let e1 : Endpoint :=
      { l.get side with rte := s, inj := i, sent := (l.get side).sent ++ s.out.tx }
    let l1 := l.put side e1
    { l1 with
      flights :=
        l1.flights ++ ts.map (fun t => { src := s.localAddr, dst := t.dest, bytes := t.bytes }) }
  | .fault _ => l
  | .refused _ => l

/-- The next step of an end's host program, if it has one: its bus access, and then what the data
read leaves to do. -/
def hostTurn (src : Side → LossSource) (l : Link) (side : Side) : Link :=
  match (l.get side).host with
  | [] => l
  | h :: rest =>
    let l1 := l.at_ src side h.event
    let e := l1.get side
    l1.put side (e.goOn h e.rte.out.busData rest)

/-- One link event. A datagram is delivered only to the instance whose address it carries, and only
while that instance's `rx_ready` = 1; otherwise it stays in flight (R46, R273). -/
def advance (src : Side → LossSource) (l : Link) : LinkEvent → Link
  | .host side => l.hostTurn src side
  | .write side a d ans => l.at_ src side (.hostWrite a d ans)
  | .read side a => l.at_ src side (.hostRead a)
  | .tick side => l.at_ src side .tick
  | .reset side => l.at_ src side .reset
  | .deliver side n =>
    match l.flights[n]? with
    | none => l
    | some f =>
      if f.dst = (l.get side).rte.localAddr ∧ rxReady (l.get side).rte = true then
        l.at_ src side (.rx f.bytes f.src)
      else l
  | .lose n => { l with flights := l.flights.eraseIdx n }
  | .forge f => if isDatagram f.bytes then { l with flights := l.flights ++ [f] } else l

/-- A transfer between the two instances, once it is under way, is over when both have BUSY = 0: the
sender after the FIN-ACK, the receiver after the FIN (R311). -/
def transferOver (l : Link) : Bool := !busy l.left.rte && !busy l.right.rte

/-- A run of a link. -/
def run (src : Side → LossSource) (l : Link) (es : List LinkEvent) : Link :=
  es.foldl (advance src) l

end Link

end Sys2Proof.Machine
end

