-- ==== Sys2Proof/Safety.lean ====
section
/-! DEFINITION. The invariants the spec states about the machine's state, in the terms its claims
use: spec/10_state.md R30, R35 to R43, spec/41_lifecycle.md R170, spec/42_sender.md R207,
spec/43_receiver.md R243, spec/40_codec.md R118. -/

namespace Sys2Proof.Machine

/-! ## Effects written out, for the statements of single instructions -/

/-- The 64-bit ADDR operand of BIND and CONNECT (R82). -/
abbrev addrOperand (s : State) : Nat := s.arg1.toNat * 2 ^ 32 + s.arg0.toNat

/-- The data packet of the chunk at offset `o` of a transfer of `len` bytes (R123, R192): the bytes
of TXMEM from `o` on, as many as CFG_MPS and the transfer's end allow. -/
def chunkPacket (s : State) (len o : Nat) : List Byte :=
  frame { seq := BitVec.ofNat 32 o, ack := s.hsNxt, syn := false, ackf := true, fin := false,
          rst := false, unused := 0, win := s.cfgWin }
    ((List.range (min s.cfgMps.toNat (len - o))).map (fun i => txByte s (o + i)))

/-- SNDBUF's entry for that chunk (R36). -/
def chunkEntry (s : State) (len o : Nat) : Nat × SndEntry :=
  (o, { len := BitVec.ofNat 16 (min s.cfgMps.toNat (len - o)), dg := chunkPacket s len o })

/-- The TX record of that chunk's datagram (R119). -/
def chunkRecord (s : State) (len o : Nat) : TxRecord :=
  { bytes := chunkPacket s len o, dest := s.peerAddr, cls := .data }

/-- The state with the FIN sent and CLOSING entered (R164). -/
def closingAfter (s : State) : State :=
  { s with
    connState := .closing
    tmr := s.cfgRto
    tmrArmed := true
    out := { s.out with
      tx := s.out.tx ++
        [{ bytes := frame { seq := s.txLen, ack := s.hsNxt, syn := false, ackf := false, fin := true,
                            rst := false, unused := 0, win := s.cfgWin } []
           dest := s.peerAddr
           cls := .data }] } }

/-- The state with the chunk at NXT sent behind the entries `rest` and the timer armed (R193). -/
def chunkAfter (s : State) (rest : OffsetMap SndEntry) : State :=
  { s with
    sndBuf := rest ++ [chunkEntry s s.txLen.toNat s.nxt.toNat]
    nxt := BitVec.ofNat 32 (min s.txLen.toNat (s.nxt.toNat + s.cfgMps.toNat))
    out := { s.out with tx := s.out.tx ++ [chunkRecord s s.txLen.toNat s.nxt.toNat] } }

/-- The state with the data ACK of value `a` sent (R125). -/
def ackAfter (s : State) (a : Word) : State :=
  { s with
    out := { s.out with
      tx := s.out.tx ++
        [{ bytes := frame { seq := 0, ack := a, syn := false, ackf := true, fin := false,
                            rst := false, unused := 0, win := s.cfgWin } []
           dest := s.peerAddr
           cls := .data }] } }

/-! ## Control (R30, R20, R170) -/

/-- The states in which R170's table says the timer is armed. -/
def timerState (s : State) : Bool :=
  match s.connState with
  | .listen => true
  | .synSent => true
  | .synReceived => true
  | .closing => true
  | .established => s.xfer.isSend
  | .closed => false

/-- The legal combinations of R30, the legal values of R20, and the rows of R170's table. -/
structure ControlInv (s : State) : Prop where
  xferConn : s.xfer ≠ .idle → s.connState = .established ∨ s.connState = .closing
  closingSend : s.connState = .closing → s.xfer.isSend = true
  connSock : s.connState ≠ .closed → s.sockOpen = true
  connConfigured : s.connState ≠ .closed → s.cfgValid = true
  lingerClosed : s.linger = true → s.connState = .closed ∧ s.sockOpen = true
  configLegal : s.cfgValid = true →
    1 ≤ s.cfgMps.toNat ∧ s.cfgMps.toNat ≤ s.params.mpsMax ∧
    1 ≤ s.cfgWin.toNat ∧ s.cfgWin.toNat ≤ s.params.wMax ∧ 1 ≤ s.cfgRto.toNat
  timerArmed : s.tmrArmed = timerState s
  timerRange : s.tmrArmed = true → 1 ≤ s.tmr.toNat ∧ s.tmr.toNat ≤ s.cfgRto.toNat

/-! ## Form of the memories, the maps and the address tags -/

/-- The canonical form of every list by key, the bounds of the memories and of their addresses, and
the width of the address tags (R32, R36, R37, R39, R40, R43). -/
structure FormInv (s : State) : Prop where
  txMemWf : Memory.wf s.txMem
  delivWf : Memory.wf s.deliv
  sndBufWf : OffsetMap.wf s.sndBuf
  rxBufWf : OffsetMap.wf s.rxBuf
  oooWf : OffsetMap.wf s.ooo
  txMemBound : ∀ c ∈ s.txMem, c.1 < s.params.txCap
  delivBound : ∀ c ∈ s.deliv, c.1 < s.params.rxCap
  localTag : s.localAddr.toNat < 2 ^ s.params.addrW
  peerTag : s.peerAddr.toNat < 2 ^ s.params.addrW
  rxSrcTag : s.rxSrc.toNat < 2 ^ s.params.addrW

/-! ## Sender (R35, R36, R207) -/

/-- ESTABLISHED with XFER = SEND_*: a sender engine is running. -/
abbrev Sending (s : State) : Prop := s.connState = .established ∧ s.xfer.isSend = true

/-- An entry of SNDBUF is the chunk at its key (R36, R207): the key is a chunk offset below NXT, the
length is the chunk's, and the datagram is the data packet of the chunk as TXMEM holds it. -/
structure EntryInv (s : State) (k : Nat) (e : SndEntry) : Prop where
  chunkOffset : k % s.cfgMps.toNat = 0
  belowNxt : k < s.nxt.toNat
  len : e.len.toNat = min s.cfgMps.toNat (s.txLen.toNat - k)
  dg : e.dg = chunkPacket s s.txLen.toNat k

/-- R35's invariant; SNDBUF is empty outside a running sender; and R207 within one. -/
structure SenderInv (s : State) : Prop where
  nxtBound : s.nxt.toNat ≤ s.txLen.toNat
  lenBound : s.txLen.toNat ≤ s.params.txCap
  nxtChunk : Sending s → s.nxt = s.txLen ∨ s.nxt.toNat % s.cfgMps.toNat = 0
  quiet : ¬ Sending s → s.sndBuf = []
  notEmpty : Sending s → s.sndBuf ≠ []
  entries : Sending s → ∀ k e, (k, e) ∈ s.sndBuf → EntryInv s k e
  window : Sending s → s.sndBuf.length ≤ s.cfgWin.toNat
  windowFull : Sending s → s.xfer ≠ .sendSaw →
    s.sndBuf.length = s.cfgWin.toNat ∨ s.nxt = s.txLen
  sawOne : Sending s → s.xfer = .sendSaw → s.sndBuf.length = 1
  contiguous : Sending s → s.xfer ≠ .sendSr → ∀ k e, (k, e) ∈ s.sndBuf →
    ∀ o, k ≤ o → o < s.nxt.toNat → o % s.cfgMps.toNat = 0 → hasKey o s.sndBuf = true

/-! ## Receiver (R38 to R43, R243) -/

/-- ESTABLISHED with XFER = RECV_*: a receiver is running. -/
abbrev Receiving (s : State) : Prop := s.connState = .established ∧ s.xfer.isRecv = true

/-- The bounds of R38 to R43, and what every receiver rule keeps of RXBUF and OOO. -/
structure ReceiverInv (s : State) : Prop where
  bytes : rxBytes s ≤ s.params.rxCap
  expBytes : s.exp.toNat ≤ mapBytes s.rxBuf
  slots : s.ooo.length ≤ s.params.oooSlots
  stored : ∀ k p, (k, p) ∈ s.rxBuf → k < s.exp.toNat ∧ p ≠ [] ∧ p.length ≤ s.params.mpsMax
  buffered : ∀ k p, (k, p) ∈ s.ooo →
    s.exp.toNat < k ∧ k < 2 ^ 32 ∧ p ≠ [] ∧ p.length ≤ s.params.mpsMax
  oooOnlySr : s.ooo ≠ [] → s.xfer = .recvSr ∧ s.params.oooPolicy = .buffer
  quiet : ¬ Receiving s → s.exp = 0 ∧ s.rxBuf = [] ∧ s.ooo = []
  delivered : s.delivLen.toNat ≤ s.params.rxCap
  deliveredListed : ∀ a, a < s.delivLen.toNat → hasKey a s.deliv = true

/-- The whole invariant, over legal parameters. -/
structure MachineInv (s : State) : Prop where
  params : s.params.Legal
  control : ControlInv s
  form : FormInv s
  sender : SenderInv s
  receiver : ReceiverInv s

/-! ## Reassembly of one byte stream (R243) -/

/-- `p` is the slice of the stream `d` at offset `k`. -/
abbrev SliceOf (d : List Byte) (k : Nat) (p : List Byte) : Prop := (d.drop k).take p.length = p

/-- The entries of a receive buffer tile the stream `d` from offset `k` on, up to `e`: they are
contiguous and each is `d`'s slice at its key. -/
def Tiles (d : List Byte) : Nat → OffsetMap (List Byte) → Nat → Prop
  | k, [], e => k = e
  | k, (a, p) :: t, e => a = k ∧ p ≠ [] ∧ SliceOf d k p ∧ Tiles d (k + p.length) t e

/-- RXBUF holds exactly the first EXP bytes of the stream `d`, contiguously, and OOO only slices
of `d` above EXP (R243). -/
structure StreamInv (d : List Byte) (s : State) : Prop where
  prefixHeld : Tiles d 0 s.rxBuf s.exp.toNat
  withinStream : s.exp.toNat ≤ d.length
  ahead : ∀ k p, (k, p) ∈ s.ooo →
    s.exp.toNat < k ∧ p ≠ [] ∧ SliceOf d k p ∧ k + p.length ≤ d.length

/-! ## Transmitted packets (R118) -/

/-- A header RTE sends: win = CFG_WIN, RST and the unused bits 0 (R111, R118). -/
abbrev sentHeader (s : State) (seq ack : Word) (syn ackf fin : Bool) : Header :=
  { seq, ack, syn, ackf, fin, rst := false, unused := 0, win := s.cfgWin }

/-- A TX record of one of the seven packets of R120 to R126, in a step that leads to `s`: the SYN, the
SYN-ACK and the handshake ACK with tag HS; a data packet, the FIN, the data ACK and the FIN-ACK with
tag DATA; each addressed to PEER_ADDR (R119). -/
def EmittedRecord (s : State) (r : TxRecord) : Prop :=
  r.dest = s.peerAddr ∧
  (r.cls = .hs ∧
      (r.bytes = frame (sentHeader s 0 0 true false false) [] ∨
        r.bytes = frame (sentHeader s 0 s.hsNxt true true false) [] ∨
        r.bytes = frame (sentHeader s 0 s.hsNxt false true false) []) ∨
    r.cls = .data ∧
      ((∃ k, k < s.txLen.toNat ∧ k % s.cfgMps.toNat = 0 ∧
          r.bytes = chunkPacket s s.txLen.toNat k) ∨
        r.bytes = frame (sentHeader s s.txLen s.hsNxt false false true) [] ∨
        (∃ a, r.bytes = frame (sentHeader s 0 a false true false) []) ∨
        (∃ f, r.bytes = frame (sentHeader s 0 f false true true) [])))

/-- A datagram R118 allows: framed from one header, payload within CFG_MPS and empty unless the
packet is of class ACK, a class RTE sends, RST and the unused bits 0. -/
def LegalDatagram (mps : Nat) (dg : List Byte) : Prop :=
  ∃ h p, dg = frame h p ∧ p.length ≤ mps ∧ (p ≠ [] → classify h = .ack) ∧
    classify h ∈ [PktClass.syn, .synack, .ack, .fin, .finack] ∧ h.rst = false ∧ h.unused = 0

end Sys2Proof.Machine
end

