-- ==== Sys2Proof/Certificates/Slice0/Obligations.lean ====
section
/-! DEFINITION. The statements about the model, each a `def Obligations.<Name> : Prop`. A statement
that says `exec i s = .next t` with `t` written as a record update of `s` states the instruction's
whole effect and its frame: every field not named is as before. -/

open Sys2Proof Sys2Proof.Machine

/-! ## Codec -/

/-- R115: deframing a framed packet gives it back, and framing a deframed datagram gives it back. -/
def Obligations.DeframeFrameRoundTrip : Prop :=
  (∀ (P : Params) (h : Header) (p : List Byte), p.length ≤ P.mpsMax →
    deframe P (frame h p) = .ok (h, p)) ∧
  (∀ (P : Params) (dg : List Byte), 12 ≤ dg.length → dg.length ≤ P.dgramMax →
    ∃ h p, deframe P dg = .ok (h, p) ∧ frame h p = dg)

/-- Every well-formed instruction decodes from its encoding, with every field at every value. -/
def Obligations.EncodeThenDecodeGivesInstruction : Prop :=
  ∀ (P : Params) (i : Instr), WellFormed P i → decode P (encode i) = .ok i

/-- An object that decodes is the encoding of the instruction read from it, which is well-formed. -/
def Obligations.DecodedObjectIsItsEncoding : Prop :=
  ∀ (P : Params) (e : Encoded) (i : Instr), decode P e = .ok i → encode i = e ∧ WellFormed P i

/-- R114: the decoder, byte by byte. -/
def Obligations.DeframeReadsBigEndianFields : Prop :=
  (∀ (P : Params) (dg : List Byte), dg.length < 12 ∨ P.dgramMax < dg.length →
    deframe P dg = .error ⟨dg.length⟩) ∧
  (∀ (P : Params) (b0 b1 b2 b3 b4 b5 b6 b7 b8 b9 b10 b11 : Byte) (payload : List Byte),
    12 + payload.length ≤ P.dgramMax →
    deframe P (b0 :: b1 :: b2 :: b3 :: b4 :: b5 :: b6 :: b7 :: b8 :: b9 :: b10 :: b11 :: payload) =
      .ok
        ({ seq := b0 ++ b1 ++ b2 ++ b3, ack := b4 ++ b5 ++ b6 ++ b7,
           syn := b8.getLsbD 7, ackf := b8.getLsbD 6, fin := b8.getLsbD 5, rst := b8.getLsbD 4,
           unused := b8.extractLsb' 0 4 ++ b9, win := b10 ++ b11 }, payload))

/-- R111, R112, R113: the bytes of a framed packet and the value of the flags word. -/
def Obligations.FrameWritesBigEndianFields : Prop :=
  (∀ (h : Header) (p : List Byte),
    frame h p =
      [h.seq.extractLsb' 24 8, h.seq.extractLsb' 16 8, h.seq.extractLsb' 8 8, h.seq.extractLsb' 0 8,
       h.ack.extractLsb' 24 8, h.ack.extractLsb' 16 8, h.ack.extractLsb' 8 8, h.ack.extractLsb' 0 8,
       (flagword h).extractLsb' 8 8, (flagword h).extractLsb' 0 8,
       h.win.extractLsb' 8 8, h.win.extractLsb' 0 8] ++ p) ∧
  (∀ h : Header,
    (flagword h).toNat = h.syn.toNat * 2 ^ 15 + h.ackf.toNat * 2 ^ 14 + h.fin.toNat * 2 ^ 13
      + h.rst.toNat * 2 ^ 12 + h.unused.toNat)

/-- The wire rows of the opcode table: which row a decoded datagram is of, by the row's match under
the mask 0xE000 of the flags word, datagram bytes 8 and 9 (R93, R116). -/
def Obligations.WireRowFollowsFlagMask : Prop :=
  ∀ (P : Params) (dg : List Byte), 12 ≤ dg.length → dg.length ≤ P.dgramMax →
    ∃ (q : Packet) (m : Half),
      m = (byteAt dg 8 ++ byteAt dg 9) &&& 0xE000 ∧ q.payload = dg.drop 12 ∧
      q.seq = byteAt dg 0 ++ byteAt dg 1 ++ byteAt dg 2 ++ byteAt dg 3 ∧
      q.ack = byteAt dg 4 ++ byteAt dg 5 ++ byteAt dg 6 ++ byteAt dg 7 ∧
      (m = 0x8000 → decodeWire P dg = .ok (.pktSyn q)) ∧
      (m = 0xC000 → decodeWire P dg = .ok (.pktSynack q)) ∧
      (m = 0x4000 → decodeWire P dg = .ok (.pktAck q)) ∧
      (m = 0x0000 → decodeWire P dg = .ok (.pktNone q)) ∧
      (m = 0x2000 → decodeWire P dg = .ok (.pktFin q)) ∧
      (m = 0x6000 → decodeWire P dg = .ok (.pktFinack q)) ∧
      (m = 0xA000 → decodeWire P dg = .ok (.pktInvalidSynfin q)) ∧
      (m = 0xE000 → decodeWire P dg = .ok (.pktInvalidSynackfin q))

/-- The command rows of the opcode table: a command word decodes to a command exactly when it is
that command's word; every other word is rejected (R80, R81, R83, R84). -/
def Obligations.CommandWordsAreTheTable : Prop :=
  ∀ (w : Word) (i : Instr),
    decodeCmd w = .ok i ↔
      (w, i) ∈ [((0x00000001 : Word), Instr.configure), (0x00000002, .bind), (0x00000003, .listen),
        (0x00000004, .connect), (0x00000005, .sendSaw), (0x00000105, .sendGbn),
        (0x00000205, .sendSr), (0x00000006, .recvSaw), (0x00000106, .recvGbn),
        (0x00000206, .recvSr), (0x00000007, .close), (0x00000008, .wrtx), (0x00000009, .rdrx)]

/-- Words written out from the spec decode to the instructions they stand for (a sanity check). -/
def Obligations.SampleWordsDecode : Prop :=
  decodeTableWord 32 0x00000205 = some .sendSr ∧ decodeTableWord 32 0x00000106 = some .recvGbn ∧
  decodeTableWord 32 0x0000000A = none ∧
  decodeTableWord 16 0x6000 = some (.pktFinack ⟨0, 0, false, 0, 0, []⟩) ∧
  decode Params.suggested (.wire [0, 0, 3, 0xE8, 0, 0, 0, 1, 0x40, 0, 0, 4, 0x61, 0x62, 0x63]) =
    .ok (.pktAck ⟨1000, 1, false, 0, 4, [0x61, 0x62, 0x63]⟩)

/-! ## Steps and events -/

/-- A step runs the decoded instruction: the host's write of a command word to CMD, and the arrival
of a datagram, of at most 65535 bytes (R110), while `rx_ready` = 1. What stands around `exec` is the model's choice: the event is
taken from the environment's list (log entry 2), the output ports are emptied (log entry 3), and the
oracle answers and the source tag, cut to ADDR_W bits, are latched (log entry 7). -/
def Obligations.StepRunsDecodedInstruction : Prop :=
  (∀ (s : State) (w : Word) (ans : EnvAnswer) (rest : List Event) (i : Instr),
    s.inputs = .hostWrite 0 w ans :: rest → decodeCmd w = .ok i →
    step s = exec i { s with inputs := rest, out := StepOutput.none, answer := ans }) ∧
  (∀ (s : State) (dg : List Byte) (src : Addr) (rest : List Event) (i : Instr),
    s.inputs = .rx dg src :: rest → rxReady s = true → dg.length ≤ 65535 →
    decodeWire s.params dg = .ok i →
    step s =
      exec i { s with inputs := rest, out := StepOutput.none, rxSrc := tagOf s.params src })

/-- R141's formula of `rx_ready`, and the steps that run no instruction and change nothing of RTE: no
event pending (the model's choice, log entry 2), a datagram while `rx_ready` = 0, that is with the
socket closed, in ESTABLISHED with no transfer, or in CLOSED without linger (R141, R153, R154, R11; log
entry 2), a byte string longer than a datagram (R110; log entry 2), a host read (R64, R67), and a tick while the timer is disarmed (R266). -/
def Obligations.StepsWithoutEffect : Prop :=
  (∀ s : State, rxReady s = true ↔ s.sockOpen = true ∧
    (s.connState ∈ [ConnState.listen, .synSent, .synReceived, .closing] ∨
      s.connState = .established ∧ s.xfer ≠ .idle ∨ s.connState = .closed ∧ s.linger = true)) ∧
  (∀ s : State, s.inputs = [] → step s = .next { s with out := StepOutput.none }) ∧
  (∀ (s : State) (dg : List Byte) (src : Addr) (rest : List Event),
    s.inputs = .rx dg src :: rest →
    s.sockOpen = false ∨ s.connState = .established ∧ s.xfer = .idle ∨
      s.connState = .closed ∧ s.linger = false ∨ 65535 < dg.length →
    step s = .next { s with inputs := rest, out := StepOutput.none }) ∧
  (∀ (s : State) (a : Word) (rest : List Event), s.inputs = .hostRead a :: rest →
    ∃ v, step s =
      .next { s with inputs := rest, out := { StepOutput.none with busData := some v } }) ∧
  (∀ (s : State) (rest : List Event), s.inputs = .tick :: rest → s.tmrArmed = false →
    step s = .next { s with inputs := rest, out := StepOutput.none })

/-- R263: a malformed datagram is dropped with one hook record, CODE is not written, and the wait
continues: the timer is re-armed in the states R144 lists and untouched in the others. No other
datagram is malformed. A datagram has at most 65535 bytes (R110). -/
def Obligations.MalformedDatagramIsDropped : Prop :=
  (∀ (P : Params) (dg : List Byte),
    (∃ e, decodeWire P dg = .error e) ↔ dg.length < 12 ∨ P.dgramMax < dg.length) ∧
  ∀ (s : State) (dg : List Byte) (src : Addr) (rest : List Event),
    s.inputs = .rx dg src :: rest → rxReady s = true → dg.length ≤ 65535 →
    dg.length < 12 ∨ s.params.dgramMax < dg.length →
    ((s.connState ∈ [ConnState.listen, .synSent, .synReceived, .closing] ∨
        s.connState = .established ∧ s.xfer ∈ [Xfer.sendSaw, .sendGbn]) →
      step s = .next { s with
        inputs := rest
        out := { StepOutput.none with hooks := [.framing dg.length] }
        tmr := s.cfgRto
        tmrArmed := true }) ∧
    (s.connState = .closed ∨ s.connState = .established ∧
        s.xfer ∈ [Xfer.sendSr, .recvSaw, .recvGbn, .recvSr] →
      step s = .next { s with
        inputs := rest
        out := { StepOutput.none with hooks := [.framing dg.length] } })

/-- A command word that is no command (R84, R261): ERR_ILLEGAL; PROTO = 3 on SEND and RECV is
ERR_PROTO, and ERR_BUSY while busy. That RESULT is cleared for an illegal word whose opcode is
RDRX's is R140's text against R84's (log entry 6). -/
def Obligations.WordsThatAreNoCommand : Prop :=
  (∀ (s : State) (w : Word),
    (w.extractLsb' 0 8 : Byte) = 0x00 ∨ 0x09 < (w.extractLsb' 0 8 : Byte) ∨
      (w.extractLsb' 10 22 : BitVec 22) ≠ 0 ∨
      (w.extractLsb' 8 2 : BitVec 2) ≠ 0 ∧ (w.extractLsb' 0 8 : Byte) ≠ 0x05 ∧
        (w.extractLsb' 0 8 : Byte) ≠ 0x06 →
    ((w.extractLsb' 0 8 : Byte) ≠ 0x09 → cmdEvent w s = .next { s with code := .errIllegal }) ∧
    ((w.extractLsb' 0 8 : Byte) = 0x09 →
      cmdEvent w s = .next { s with code := .errIllegal, result := 0 })) ∧
  (∀ (s : State) (w : Word), w = 0x00000305 ∨ w = 0x00000306 →
    (busy s = true → cmdEvent w s = .next { s with code := .errBusy }) ∧
    (busy s = false → cmdEvent w s = .next { s with code := .errProto }))

/-! ## STATUS and the host bus -/

/-- R25 and R27: the fields of STATUS, and BUSY, with the numbers of CODE (R260), CONN_STATE and XFER
(R30), so that CODE never holds 0xC to 0xF; and STATUS is 0 at reset. -/
def Obligations.StatusWordLayout : Prop :=
  ∀ s : State,
    (s.code, ((statusWord s).extractLsb' 0 4 : BitVec 4)) ∈
      [(ResultCode.ok, (0x0 : BitVec 4)), (.errIllegal, 0x1), (.errBusy, 0x2), (.errState, 0x3),
        (.errProto, 0x4), (.errConfig, 0x5), (.errRange, 0x6), (.errBindInvalid, 0x7),
        (.errBindInUse, 0x8), (.errResource, 0x9), (.connectFail, 0xA), (.rxOverflow, 0xB)] ∧
    ((statusWord s).getLsbD 4 = true ↔
      s.connState ∈ [ConnState.listen, .synSent, .synReceived] ∨ s.xfer ≠ .idle) ∧
    (s.connState, ((statusWord s).extractLsb' 5 3 : BitVec 3)) ∈
      [(ConnState.closed, (0 : BitVec 3)), (.listen, 1), (.synSent, 2), (.synReceived, 3),
        (.established, 4), (.closing, 5)] ∧
    (s.xfer, ((statusWord s).extractLsb' 8 3 : BitVec 3)) ∈
      [(Xfer.idle, (0 : BitVec 3)), (.sendSaw, 1), (.sendGbn, 2), (.sendSr, 3), (.recvSaw, 4),
        (.recvGbn, 5), (.recvSr, 6)] ∧
    (statusWord s).getLsbD 11 = s.sockOpen ∧ (statusWord s).getLsbD 12 = s.linger ∧
    (statusWord s).getLsbD 13 = s.rxOvf ∧ (statusWord s).getLsbD 14 = s.cfgValid ∧
    (statusWord s).getLsbD 15 = s.tmrArmed ∧ ((statusWord s).extractLsb' 16 16 : Half) = 0 ∧
    statusWord State.reset = 0

/-- R28: what the host reads at each word address, and 0 at every other address; the registers it
can write, the CMD event of a write to CMD, and that a write to any other address is ignored. The
premises on the two tags are their width (R32). -/
def Obligations.HostRegisterMap : Prop :=
  (∀ (s : State) (a : Word) (rest : List Event), s.inputs = .hostRead a :: rest →
    s.peerAddr.toNat < 2 ^ s.params.addrW → s.localAddr.toNat < 2 ^ s.params.addrW →
    ∃ v : Word,
      step s = .next { s with inputs := rest, out := { StepOutput.none with busData := some v } } ∧
      (a = 0x04 → v = s.arg0) ∧ (a = 0x08 → v = s.arg1) ∧ (a = 0x0C → v = s.arg2) ∧
      (a = 0x10 → v = s.arg3) ∧ (a = 0x14 → v = statusWord s) ∧ (a = 0x18 → v = s.result) ∧
      (a = 0x1C → v = s.delivLen) ∧
      (a = 0x20 → (v.extractLsb' 0 16 : Half) = s.cfgMps ∧ (v.extractLsb' 16 16 : Half) = s.cfgWin) ∧
      (a = 0x24 → v = s.cfgRto) ∧ (a = 0x28 → v = s.cfgLossP) ∧
      (a = 0x2C → (v.extractLsb' 0 31 : BitVec 31) = s.cfgLossMax ∧ v.getLsbD 31 = s.cfgVerbose) ∧
      (a = 0x30 → v = s.hsNxt) ∧ (a = 0x34 → v = s.txLen) ∧ (a = 0x38 → v = s.nxt) ∧
      (a = 0x3C → v = s.exp) ∧ (a = 0x40 → v.toNat = s.sndBuf.length % 2 ^ 16) ∧
      (a = 0x44 → v = s.tmr) ∧
      (a = 0x48 → v = s.peerAddr.extractLsb' 0 32) ∧ (a = 0x4C → v = s.peerAddr.extractLsb' 32 32) ∧
      (a = 0x50 → v = s.localAddr.extractLsb' 0 32) ∧
      (a = 0x54 → v = s.localAddr.extractLsb' 32 32) ∧
      (a = 0x00 ∨ 0x54 < a ∨ a.extractLsb' 0 2 ≠ (0 : BitVec 2) → v = 0)) ∧
  (∀ (s : State) (a d : Word) (ans : EnvAnswer) (rest : List Event),
    s.inputs = .hostWrite a d ans :: rest →
    (a = 0x00 → step s =
      cmdEvent d { s with inputs := rest, out := StepOutput.none, answer := ans }) ∧
    (a = 0x04 → step s = .next { s with inputs := rest, out := StepOutput.none, arg0 := d }) ∧
    (a = 0x08 → step s = .next { s with inputs := rest, out := StepOutput.none, arg1 := d }) ∧
    (a = 0x0C → step s = .next { s with inputs := rest, out := StepOutput.none, arg2 := d }) ∧
    (a = 0x10 → step s = .next { s with inputs := rest, out := StepOutput.none, arg3 := d }) ∧
    (a ∉ [(0x00 : Word), 0x04, 0x08, 0x0C, 0x10] →
      step s = .next { s with inputs := rest, out := StepOutput.none }))

/-- R64: the access rules of the host bus. A misaligned access does nothing and reads 0; a read has
no side effect; a write to ARG0 to ARG3 replaces the whole register; a write to CMD raises one CMD
event; a write anywhere else is ignored. -/
def Obligations.HostBusAccessRules : Prop :=
  (∀ (s : State) (a : Word) (rest : List Event), s.inputs = .hostRead a :: rest →
    ∃ v : Word,
      step s = .next { s with inputs := rest, out := { StepOutput.none with busData := some v } } ∧
      (a.toNat % 4 ≠ 0 → v = 0)) ∧
  (∀ (s : State) (a d : Word) (ans : EnvAnswer) (rest : List Event),
    s.inputs = .hostWrite a d ans :: rest →
    (a.toNat = 0 → step s =
      cmdEvent d { s with inputs := rest, out := StepOutput.none, answer := ans }) ∧
    (a.toNat = 4 → step s = .next { s with inputs := rest, out := StepOutput.none, arg0 := d }) ∧
    (a.toNat = 8 → step s = .next { s with inputs := rest, out := StepOutput.none, arg1 := d }) ∧
    (a.toNat = 12 → step s = .next { s with inputs := rest, out := StepOutput.none, arg2 := d }) ∧
    (a.toNat = 16 → step s = .next { s with inputs := rest, out := StepOutput.none, arg3 := d }) ∧
    (a.toNat % 4 ≠ 0 ∨ 16 < a.toNat →
      step s = .next { s with inputs := rest, out := StepOutput.none }))

/-! ## Lifecycle commands -/

/-- R146: CONFIGURE with operands in range writes the configuration; out of range it is refused and
no register but CODE changes; while busy it is refused with ERR_BUSY. -/
def Obligations.ConfigureWritesOrRefuses : Prop :=
  ∀ s : State,
    (busy s = true → exec .configure s = .next { s with code := .errBusy }) ∧
    (busy s = false →
      (1 ≤ (s.arg0.toNat % 2 ^ 16) ∧ s.arg0.toNat % 2 ^ 16 ≤ s.params.mpsMax ∧
        1 ≤ s.arg0.toNat / 2 ^ 16 ∧ s.arg0.toNat / 2 ^ 16 ≤ s.params.wMax ∧ s.arg1 ≠ 0 →
        exec .configure s = .next { s with
          code := .ok
          cfgMps := BitVec.ofNat 16 (s.arg0.toNat % 2 ^ 16)
          cfgWin := BitVec.ofNat 16 (s.arg0.toNat / 2 ^ 16)
          cfgRto := s.arg1
          cfgLossP := s.arg2
          cfgLossMax := s.arg3.extractLsb' 0 31
          cfgVerbose := s.arg3.getLsbD 31
          cfgValid := true }) ∧
      (s.arg0.toNat % 2 ^ 16 = 0 ∨ s.params.mpsMax < s.arg0.toNat % 2 ^ 16 ∨
        s.arg0.toNat / 2 ^ 16 = 0 ∨ s.params.wMax < s.arg0.toNat / 2 ^ 16 ∨ s.arg1 = 0 →
        exec .configure s = .next { s with code := .errConfig }))

/-- R147: BIND past its checks, for each answer of the environment; with a socket open it is refused
with ERR_STATE. -/
def Obligations.BindTakesTheEnvironmentsAnswer : Prop :=
  (∀ s : State, busy s = false → s.sockOpen = true →
    exec .bind s = .next { s with code := .errState }) ∧
  (∀ s : State, busy s = false → s.sockOpen = false → addrOperand s < 2 ^ s.params.addrW →
    s.params.addrW ≤ 64 →
    (s.answer.bind = .ok → exec .bind s = .next { s with
      code := .ok
      sockOpen := true
      localAddr := BitVec.ofNat 64 (addrOperand s)
      linger := false }) ∧
    (s.answer.bind = .invalid → exec .bind s = .next { s with code := .errBindInvalid }) ∧
    (s.answer.bind = .inUse → exec .bind s = .next { s with code := .errBindInUse }) ∧
    (s.answer.bind = .resource → exec .bind s = .next { s with code := .errResource }))

/-- R148: LISTEN from CLOSED with a socket and a configuration. -/
def Obligations.ListenStartsWaiting : Prop :=
  ∀ s : State, busy s = false → s.sockOpen = true → s.connState = .closed → s.cfgValid = true →
    exec .listen s = .next { s with
      code := .ok
      peerAddr := 0
      hsNxt := 0
      linger := false
      connState := .listen
      tmr := s.cfgRto
      tmrArmed := true }

/-- R149: CONNECT past its checks: a SYN goes to the operand's address; with no socket open the
environment's answer opens one, under an ephemeral tag of ADDR_W bits (R275), or ends the command. -/
def Obligations.ConnectSendsSyn : Prop :=
  ∀ s : State, busy s = false → s.connState = .closed → s.cfgValid = true →
    addrOperand s < 2 ^ s.params.addrW → s.params.addrW ≤ 64 →
    let syn : TxRecord :=
      { bytes := frame { seq := 0, ack := 0, syn := true, ackf := false, fin := false,
                         rst := false, unused := 0, win := s.cfgWin } []
        dest := BitVec.ofNat 64 (addrOperand s)
        cls := .hs }
    let t : State :=
      { s with
        code := .ok
        sockOpen := true
        peerAddr := BitVec.ofNat 64 (addrOperand s)
        hsNxt := 0
        linger := false
        txLen := 0
        nxt := 0
        sndBuf := []
        connState := .synSent
        tmr := s.cfgRto
        tmrArmed := true
        out := { s.out with tx := s.out.tx ++ [syn] } }
    (s.sockOpen = true → exec .connect s = .next t) ∧
    (s.sockOpen = false → ∀ e, s.answer.openSocket = .ok e → e.toNat < 2 ^ s.params.addrW →
      exec .connect s = .next { t with localAddr := e }) ∧
    (s.sockOpen = false → s.answer.openSocket = .resource →
      exec .connect s = .next { s with code := .errResource })

/-- R150: CLOSE in every state. -/
def Obligations.CloseAbortsInEveryState : Prop :=
  ∀ s : State,
    exec .close s = .next { s with
      code := .ok
      sockOpen := false
      connState := .closed
      xfer := .idle
      linger := false
      tmrArmed := false
      txLen := 0
      nxt := 0
      sndBuf := []
      hsNxt := 0
      exp := 0
      rxBuf := []
      ooo := []
      rxOvf := false
      out := { s.out with xferReset := true } }

/-- R151: WRTX writes one byte of TXMEM; every other byte of TXMEM reads as before, and so does
every other field, DELIV among them. While busy, or out of range, it is refused with no write. -/
def Obligations.WrtxWritesOneByte : Prop :=
  ∀ s : State,
    (busy s = true → exec .wrtx s = .next { s with code := .errBusy }) ∧
    (busy s = false → s.params.txCap ≤ s.arg0.toNat →
      exec .wrtx s = .next { s with code := .errRange }) ∧
    (busy s = false → s.arg0.toNat < s.params.txCap →
      ∃ m, exec .wrtx s = .next { s with code := .ok, txMem := m } ∧
        ∀ a, txByte { s with code := .ok, txMem := m } a =
          if a = s.arg0.toNat then s.arg1.extractLsb' 0 8 else txByte s a)

/-- R152: RDRX below DELIV_LEN returns the delivered byte, busy or not; at or above DELIV_LEN it is
refused with ERR_RANGE and RESULT is 0. -/
def Obligations.RdrxReadsDeliveredByte : Prop :=
  ∀ s : State,
    (s.arg0.toNat < s.delivLen.toNat → exec .rdrx s = .next { s with
      code := .ok
      result := BitVec.ofNat 32 (delivByte s s.arg0.toNat).toNat }) ∧
    (s.delivLen.toNat ≤ s.arg0.toNat → exec .rdrx s = .next { s with
      code := .errRange
      result := 0 })

/-- The refusals of the other commands, in the order BUSY, STATE, CONFIG, RANGE (R145, R261): each
writes CODE and nothing else (R262). -/
def Obligations.RefusedCommandWritesCodeOnly : Prop :=
  ∀ s : State,
    (busy s = true →
      ∀ i ∈ [Instr.configure, .bind, .listen, .connect, .sendSaw, .sendGbn, .sendSr, .recvSaw,
        .recvGbn, .recvSr, .wrtx], exec i s = .next { s with code := .errBusy }) ∧
    (busy s = false →
      (s.sockOpen = true → exec .bind s = .next { s with code := .errState }) ∧
      (s.sockOpen = false ∨ s.connState ≠ .closed →
        exec .listen s = .next { s with code := .errState }) ∧
      (s.connState ≠ .closed → exec .connect s = .next { s with code := .errState }) ∧
      (s.connState ≠ .established →
        ∀ i ∈ [Instr.sendSaw, .sendGbn, .sendSr, .recvSaw, .recvGbn, .recvSr],
          exec i s = .next { s with code := .errState }) ∧
      (s.cfgValid = false →
        (s.sockOpen = true → s.connState = .closed →
          exec .listen s = .next { s with code := .errConfig }) ∧
        (s.connState = .closed → exec .connect s = .next { s with code := .errConfig }) ∧
        (s.connState = .established →
          ∀ i ∈ [Instr.sendSaw, .sendGbn, .sendSr, .recvSaw, .recvGbn, .recvSr],
            exec i s = .next { s with code := .errConfig })) ∧
      (2 ^ s.params.addrW ≤ addrOperand s →
        (s.sockOpen = false → exec .bind s = .next { s with code := .errRange }) ∧
        (s.connState = .closed → s.cfgValid = true →
          exec .connect s = .next { s with code := .errRange })) ∧
      (s.connState = .established → s.cfgValid = true → s.params.txCap < s.arg0.toNat →
        ∀ i ∈ [Instr.sendSaw, .sendGbn, .sendSr], exec i s = .next { s with code := .errRange }) ∧
      (s.params.txCap ≤ s.arg0.toNat → exec .wrtx s = .next { s with code := .errRange }))

/-! ## Connection FSM -/

/-- R155: LISTEN, a SYN arrives (its source tag is on the RX port). -/
def Obligations.SynInListenIsAnswered : Prop :=
  ∀ (s : State) (p : Packet), s.sockOpen = true → s.connState = .listen →
    exec (.pktSyn p) s = .next { s with
      peerAddr := s.rxSrc
      hsNxt := p.seq + 1
      connState := .synReceived
      tmr := s.cfgRto
      tmrArmed := true
      out := { s.out with
        tx := s.out.tx ++
          [{ bytes := frame { seq := 0, ack := p.seq + 1, syn := true, ackf := true, fin := false,
                              rst := false, unused := 0, win := s.cfgWin } []
             dest := s.rxSrc
             cls := .hs }] } }

/-- R158: SYN_RECEIVED, any packet of class ACK accepts the connection. -/
def Obligations.AckInSynReceivedEstablishes : Prop :=
  ∀ (s : State) (p : Packet), s.sockOpen = true → s.connState = .synReceived →
    exec (.pktAck p) s = .next { s with
      connState := .established
      tmrArmed := false
      code := .ok
      out := { s.out with hooks := s.out.hooks ++ [.done .ok] } }

/-- R161: SYN_SENT, the SYN-ACK establishes the connection and is acknowledged. -/
def Obligations.SynackInSynSentEstablishes : Prop :=
  ∀ (s : State) (p : Packet), s.sockOpen = true → s.connState = .synSent →
    exec (.pktSynack p) s = .next { s with
      hsNxt := p.seq + 1
      connState := .established
      tmrArmed := false
      code := .ok
      out := { s.out with
        tx := s.out.tx ++
          [{ bytes := frame { seq := 0, ack := p.seq + 1, syn := false, ackf := true, fin := false,
                              rst := false, unused := 0, win := s.cfgWin } []
             dest := s.peerAddr
             cls := .hs }]
        hooks := s.out.hooks ++ [.done .ok] } }

/-- R165: CLOSING, the FIN-ACK completes SEND. -/
def Obligations.FinackInClosingCompletesSend : Prop :=
  ∀ (s : State) (p : Packet), s.sockOpen = true → s.connState = .closing →
    exec (.pktFinack p) s = .next { s with
      sockOpen := false
      connState := .closed
      xfer := .idle
      tmrArmed := false
      txLen := 0
      nxt := 0
      sndBuf := []
      hsNxt := 0
      code := .ok
      out := { s.out with hooks := s.out.hooks ++ [.done .ok], xferReset := true } }

/-- R168: linger, a duplicate FIN is answered with a FIN-ACK and changes nothing else. -/
def Obligations.FinInLingerIsAnswered : Prop :=
  ∀ (s : State) (p : Packet), s.sockOpen = true → s.connState = .closed → s.linger = true →
    exec (.pktFin p) s = .next { s with
      out := { s.out with
        tx := s.out.tx ++
          [{ bytes := frame { seq := 0, ack := p.seq, syn := false, ackf := true, fin := true,
                              rst := false, unused := 0, win := s.cfgWin } []
             dest := s.peerAddr
             cls := .data }] } }

/-- R156, R159, R162, R166: in a handshake or teardown wait, a packet of any other class than the
one awaited re-arms the timer and does nothing else. -/
def Obligations.OtherClassesOnlyRestartTheWait : Prop :=
  ∀ (s : State) (p : Packet), s.sockOpen = true →
    (s.connState = .listen →
      ∀ i ∈ [Instr.pktSynack p, .pktAck p, .pktNone p, .pktFin p, .pktFinack p,
        .pktInvalidSynfin p, .pktInvalidSynackfin p],
        exec i s = .next { s with tmr := s.cfgRto, tmrArmed := true }) ∧
    (s.connState = .synReceived →
      ∀ i ∈ [Instr.pktSyn p, .pktSynack p, .pktNone p, .pktFin p, .pktFinack p,
        .pktInvalidSynfin p, .pktInvalidSynackfin p],
        exec i s = .next { s with tmr := s.cfgRto, tmrArmed := true }) ∧
    (s.connState = .synSent →
      ∀ i ∈ [Instr.pktSyn p, .pktAck p, .pktNone p, .pktFin p, .pktFinack p,
        .pktInvalidSynfin p, .pktInvalidSynackfin p],
        exec i s = .next { s with tmr := s.cfgRto, tmrArmed := true }) ∧
    (s.connState = .closing →
      ∀ i ∈ [Instr.pktSyn p, .pktSynack p, .pktAck p, .pktNone p, .pktFin p,
        .pktInvalidSynfin p, .pktInvalidSynackfin p],
        exec i s = .next { s with tmr := s.cfgRto, tmrArmed := true })

/-- R94(c): a packet of class INVALID, and one of class NONE with no payload, is consumed and
ignored in every state in which a datagram is taken; only the timer is re-armed where R144 says. -/
def Obligations.InvalidClassesAreIgnored : Prop :=
  ∀ (s : State) (p : Packet), rxReady s = true →
    ∀ i, i = Instr.pktInvalidSynfin p ∨ i = .pktInvalidSynackfin p ∨
        (i = .pktNone p ∧ p.payload = []) →
      ((s.connState ∈ [ConnState.listen, .synSent, .synReceived, .closing] ∨
          s.connState = .established ∧ s.xfer ∈ [Xfer.sendSaw, .sendGbn]) →
        exec i s = .next { s with tmr := s.cfgRto, tmrArmed := true }) ∧
      (s.connState = .closed ∨ s.connState = .established ∧
          s.xfer ∈ [Xfer.sendSr, .recvSaw, .recvGbn, .recvSr] →
        exec i s = .next s)

/-- R169 and R241: in linger every packet but a FIN, and in RECV_x every packet of class SYN,
SYNACK, FINACK or INVALID and every NONE or ACK packet without payload, is consumed with no
effect. -/
def Obligations.LingerAndReceiverIgnoreStrays : Prop :=
  ∀ (s : State) (p : Packet), s.sockOpen = true →
    (s.connState = .closed → s.linger = true →
      ∀ i ∈ [Instr.pktSyn p, .pktSynack p, .pktAck p, .pktNone p, .pktFinack p,
        .pktInvalidSynfin p, .pktInvalidSynackfin p], exec i s = .next s) ∧
    (s.connState = .established → s.xfer ∈ [Xfer.recvSaw, .recvGbn, .recvSr] →
      (∀ i ∈ [Instr.pktSyn p, .pktSynack p, .pktFinack p, .pktInvalidSynfin p,
        .pktInvalidSynackfin p], exec i s = .next s) ∧
      (p.payload = [] → exec (.pktAck p) s = .next s ∧ exec (.pktNone p) s = .next s))

/-! ## Sender engines -/

/-- R210: a zero-length SEND sends no data, only the FIN with seq 0. -/
def Obligations.ZeroLengthSendGoesToClosing : Prop :=
  ∀ s : State, busy s = false → s.connState = .established → s.cfgValid = true → s.arg0 = 0 →
    ∀ i x, (i, x) ∈ [(Instr.sendSaw, Xfer.sendSaw), (.sendGbn, .sendGbn), (.sendSr, .sendSr)] →
      exec i s = .next { s with
        code := .ok
        txLen := 0
        nxt := 0
        sndBuf := []
        xfer := x
        connState := .closing
        tmr := s.cfgRto
        tmrArmed := true
        out := { s.out with
          tx := s.out.tx ++
            [{ bytes := frame { seq := 0, ack := s.hsNxt, syn := false, ackf := false, fin := true,
                                rst := false, unused := 0, win := s.cfgWin } []
               dest := s.peerAddr
               cls := .data }] } }

/-- R190, R195: SEND.SAW of at least one byte sends the first chunk and arms the timer. -/
def Obligations.SawSendsFirstChunk : Prop :=
  ∀ s : State, busy s = false → s.connState = .established → s.cfgValid = true → s.arg0 ≠ 0 →
    s.arg0.toNat ≤ s.params.txCap →
    exec .sendSaw s = .next { s with
      code := .ok
      txLen := s.arg0
      nxt := BitVec.ofNat 32 (min s.cfgMps.toNat s.arg0.toNat)
      sndBuf := [chunkEntry s s.arg0.toNat 0]
      xfer := .sendSaw
      tmr := s.cfgRto
      tmrArmed := true
      out := { s.out with tx := s.out.tx ++ [chunkRecord s s.arg0.toNat 0] } }

/-- R199, R200, R204: SEND.GBN and SEND.SR of at least one byte send the chunks at offsets 0, MPS,
2·MPS, … in that order, as many as the window and the transfer have, and arm the timer. -/
def Obligations.SendBurstFillsWindow : Prop :=
  ∀ s : State, busy s = false → s.connState = .established → s.cfgValid = true → s.arg0 ≠ 0 →
    s.arg0.toNat ≤ s.params.txCap → 1 ≤ s.cfgMps.toNat →
    ∀ i x, (i, x) ∈ [(Instr.sendGbn, Xfer.sendGbn), (.sendSr, .sendSr)] →
      let len := s.arg0.toNat
      let mps := s.cfgMps.toNat
      let n := min s.cfgWin.toNat ((len + mps - 1) / mps)
      exec i s = .next { s with
        code := .ok
        txLen := s.arg0
        nxt := BitVec.ofNat 32 (min len (n * mps))
        sndBuf := (List.range n).map (fun j => chunkEntry s len (j * mps))
        xfer := x
        tmr := s.cfgRto
        tmrArmed := true
        out := { s.out with
          tx := s.out.tx ++ (List.range n).map (fun j => chunkRecord s len (j * mps)) } }

/-- R196: SAW, the matching ACK: the entry goes, the next chunk is sent or teardown begins. -/
def Obligations.SawMatchingAckAdvances : Prop :=
  ∀ (s : State) (p : Packet) (k : Nat) (e : SndEntry), s.sockOpen = true →
    s.connState = .established → s.xfer = .sendSaw → s.sndBuf = [(k, e)] →
    p.ack.toNat = k + e.len.toNat →
    (s.nxt < s.txLen →
      exec (.pktAck p) s = .next { chunkAfter s [] with tmr := s.cfgRto, tmrArmed := true }) ∧
    (¬ s.nxt < s.txLen → exec (.pktAck p) s = .next (closingAfter { s with sndBuf := [] }))

/-- R201: GBN, the ACK for the oldest packet slides the window by one. The premises on SNDBUF are
those of the sender's invariant (R207, and a full window while bytes are unsent). -/
def Obligations.GbnMatchingAckAdvances : Prop :=
  ∀ (s : State) (p : Packet) (m : Nat) (e : SndEntry) (rest : OffsetMap SndEntry),
    s.sockOpen = true → s.connState = .established → s.xfer = .sendGbn →
    s.sndBuf = (m, e) :: rest → p.ack.toNat = m + e.len.toNat →
    s.nxt.toNat ≤ s.txLen.toNat → (∀ c ∈ rest, c.1 < s.nxt.toNat) → 1 ≤ s.cfgMps.toNat →
    (rest.length + 1 = s.cfgWin.toNat ∨ s.nxt = s.txLen) →
    (s.nxt ≠ s.txLen →
      exec (.pktAck p) s = .next { chunkAfter s rest with tmr := s.cfgRto, tmrArmed := true }) ∧
    (s.nxt = s.txLen → rest ≠ [] →
      exec (.pktAck p) s = .next { s with sndBuf := rest, tmr := s.cfgRto, tmrArmed := true }) ∧
    (s.nxt = s.txLen → rest = [] →
      exec (.pktAck p) s = .next (closingAfter { s with sndBuf := [] }))

/-- R197 and R202: SAW and GBN, any packet that does not match re-arms the timer and does nothing
else: a non-matching ACK, or any other class. -/
def Obligations.SawAndGbnIgnoreOtherPackets : Prop :=
  ∀ (s : State) (p : Packet), s.sockOpen = true → s.connState = .established →
    s.xfer = .sendSaw ∨ s.xfer = .sendGbn →
    (∀ i ∈ [Instr.pktSyn p, .pktSynack p, .pktNone p, .pktFin p, .pktFinack p,
      .pktInvalidSynfin p, .pktInvalidSynackfin p],
      exec i s = .next { s with tmr := s.cfgRto, tmrArmed := true }) ∧
    ((∀ k e rest, s.sndBuf = (k, e) :: rest → p.ack.toNat ≠ k + e.len.toNat) →
      exec (.pktAck p) s = .next { s with tmr := s.cfgRto, tmrArmed := true })

/-- R205: the offset an ACK value names under SR, by the rule's pseudocode (log entry 10 says where
its prose differs). -/
def Obligations.SrAckedOffset : Prop :=
  ∀ (s : State) (a : Word), 1 ≤ s.cfgMps.toNat →
    (s.txLen ≠ 0 → a = s.txLen →
      ∃ k, srAcked s a = some k ∧ k % s.cfgMps.toNat = 0 ∧ k < s.txLen.toNat ∧
        s.txLen.toNat ≤ k + s.cfgMps.toNat) ∧
    (¬ (s.txLen ≠ 0 ∧ a = s.txLen) → s.cfgMps.toNat ≤ a.toNat →
      srAcked s a = some (a.toNat - s.cfgMps.toNat)) ∧
    (¬ (s.txLen ≠ 0 ∧ a = s.txLen) → a.toNat < s.cfgMps.toNat → srAcked s a = none) ∧
    (s.txLen.toNat % s.cfgMps.toNat = 0 → s.txLen ≠ 0 →
      srAcked s s.txLen = some (s.txLen.toNat - s.cfgMps.toNat))

/-- R206: SR, a hit removes its own entry alone; the timer restarts only when the head was removed.
The premises on SNDBUF are those of the sender's invariant. -/
def Obligations.SrHitRemovesItsEntry : Prop :=
  ∀ (s : State) (p : Packet) (k h : Nat) (eh : SndEntry) (tl rest : OffsetMap SndEntry),
    s.sockOpen = true → s.connState = .established → s.xfer = .sendSr →
    s.sndBuf = (h, eh) :: tl → OffsetMap.wf s.sndBuf → srAcked s p.ack = some k →
    hasKey k s.sndBuf = true → rest = s.sndBuf.filter (fun c => c.1 != k) →
    s.nxt.toNat ≤ s.txLen.toNat → (∀ c ∈ s.sndBuf, c.1 < s.nxt.toNat) → 1 ≤ s.cfgMps.toNat →
    (s.sndBuf.length = s.cfgWin.toNat ∨ s.nxt = s.txLen) →
    (s.nxt ≠ s.txLen → k = h →
      exec (.pktAck p) s = .next { chunkAfter s rest with tmr := s.cfgRto, tmrArmed := true }) ∧
    (s.nxt ≠ s.txLen → k ≠ h → exec (.pktAck p) s = .next (chunkAfter s rest)) ∧
    (s.nxt = s.txLen → rest ≠ [] → k = h →
      exec (.pktAck p) s = .next { s with sndBuf := rest, tmr := s.cfgRto, tmrArmed := true }) ∧
    (s.nxt = s.txLen → rest ≠ [] → k ≠ h →
      exec (.pktAck p) s = .next { s with sndBuf := rest }) ∧
    (s.nxt = s.txLen → rest = [] →
      exec (.pktAck p) s = .next (closingAfter { s with sndBuf := [] }))

/-- R208: SR, a miss or any other class has no effect at all, the timer included. -/
def Obligations.SrMissHasNoEffect : Prop :=
  ∀ (s : State) (p : Packet), s.sockOpen = true → s.connState = .established → s.xfer = .sendSr →
    (∀ i ∈ [Instr.pktSyn p, .pktSynack p, .pktNone p, .pktFin p, .pktFinack p,
      .pktInvalidSynfin p, .pktInvalidSynackfin p], exec i s = .next s) ∧
    ((srAcked s p.ack = none ∨ ∃ k, srAcked s p.ack = some k ∧ hasKey k s.sndBuf = false) →
      exec (.pktAck p) s = .next s)

/-! ## Receiver -/

/-- R230: RECV from ESTABLISHED. -/
def Obligations.RecvStartsReceiver : Prop :=
  ∀ s : State, busy s = false → s.connState = .established → s.cfgValid = true →
    ∀ i x, (i, x) ∈ [(Instr.recvSaw, Xfer.recvSaw), (.recvGbn, .recvGbn), (.recvSr, .recvSr)] →
      exec i s = .next { s with
        code := .ok
        exp := 0
        rxBuf := []
        ooo := []
        rxOvf := false
        linger := false
        tmrArmed := false
        xfer := x }

/-- R231, R232, R238, R244: a data packet, of class ACK or NONE, at EXP is stored and acknowledged
with its end, which is the new EXP where nothing is merged; SR under policy BUFFER merges first
(`MergeDrainsAdjoiningEntries` says what `merge` does). Refused for capacity, it sets RX_OVF and is
not acknowledged. -/
def Obligations.InOrderDataIsStoredAndAcknowledged : Prop :=
  ∀ (s : State) (p : Packet), s.sockOpen = true → s.connState = .established →
    s.xfer ∈ [Xfer.recvSaw, .recvGbn, .recvSr] → p.payload ≠ [] → p.seq = s.exp →
    ∀ i, i = Instr.pktAck p ∨ i = .pktNone p →
      (rxBytes s + p.payload.length ≤ s.params.rxCap →
        ∃ m,
          (∀ k, lookupKey k m = if k = p.seq.toNat then some p.payload else lookupKey k s.rxBuf) ∧
          (s.xfer ≠ .recvSr ∨ s.params.oooPolicy = .discard →
            exec i s = .next (ackAfter
              { s with rxBuf := m, exp := s.exp + BitVec.ofNat 32 p.payload.length }
              (s.exp + BitVec.ofNat 32 p.payload.length))) ∧
          (s.xfer = .recvSr → s.params.oooPolicy = .buffer →
            exec i s = .next (ackAfter
              (merge { s with rxBuf := m, exp := s.exp + BitVec.ofNat 32 p.payload.length })
              (p.seq + BitVec.ofNat 32 p.payload.length)))) ∧
      (s.params.rxCap < rxBytes s + p.payload.length →
        exec i s = .next { s with rxOvf := true })

/-- R233: `Merge()`. While EXP is a key of OOO, its entry is moved to RXBUF, EXP advances by its length
and `Merge()` goes on; when it is none, the stale entries below EXP are dropped, and that is all. In
all: what is left in OOO is what was there above the new EXP, EXP has grown by exactly the bytes
RXBUF has gained, each gained entry came from OOO at an offset between the old EXP and the new, nothing
of RXBUF is lost, and no other field changes. The premises are the receiver's invariant: the maps are
in canonical form, no entry is empty, the keys of RXBUF are below EXP, and offsets do not wrap. -/
def Obligations.MergeDrainsAdjoiningEntries : Prop :=
  (∀ (s : State) (q : List Byte), OffsetMap.wf s.ooo → OffsetMap.wf s.rxBuf →
    lookupKey s.exp.toNat s.ooo = some q →
    ∃ (o m : OffsetMap (List Byte)), OffsetMap.wf o ∧ OffsetMap.wf m ∧
      (∀ k, lookupKey k o = if k = s.exp.toNat then none else lookupKey k s.ooo) ∧
      (∀ k, lookupKey k m = if k = s.exp.toNat then some q else lookupKey k s.rxBuf) ∧
      merge s = merge { s with ooo := o, rxBuf := m, exp := s.exp + BitVec.ofNat 32 q.length }) ∧
  (∀ s : State, lookupKey s.exp.toNat s.ooo = none →
    merge s = { s with ooo := s.ooo.filter (fun c => decide (s.exp.toNat ≤ c.1)) }) ∧
  (∀ s : State, OffsetMap.wf s.ooo → (∀ k p, (k, p) ∈ s.ooo → p ≠ []) →
    (∀ k p, (k, p) ∈ s.rxBuf → k < s.exp.toNat) → s.exp.toNat + mapBytes s.ooo < 2 ^ 32 →
    (∀ k p, (k, p) ∈ (merge s).ooo ↔ (k, p) ∈ s.ooo ∧ (merge s).exp.toNat < k) ∧
    s.exp.toNat ≤ (merge s).exp.toNat ∧
    (merge s).exp.toNat + mapBytes s.rxBuf = s.exp.toNat + mapBytes (merge s).rxBuf ∧
    (∀ k p, lookupKey k s.rxBuf = some p → lookupKey k (merge s).rxBuf = some p) ∧
    (∀ k p, lookupKey k (merge s).rxBuf = some p → lookupKey k s.rxBuf = some p ∨
      (k, p) ∈ s.ooo ∧ s.exp.toNat ≤ k ∧ k < (merge s).exp.toNat) ∧
    merge s = { s with
      ooo := (merge s).ooo, rxBuf := (merge s).rxBuf, exp := (merge s).exp })

/-- R234, R235: a data packet above EXP is discarded under SAW, GBN and SR with policy DISCARD; under
SR with policy BUFFER it is acknowledged with its end if it is buffered already or is buffered now,
and discarded when the table or the capacity is full. -/
def Obligations.OutOfOrderData : Prop :=
  ∀ (s : State) (p : Packet), s.sockOpen = true → s.connState = .established →
    p.payload ≠ [] → s.exp < p.seq →
    ∀ i, i = Instr.pktAck p ∨ i = .pktNone p →
      (s.xfer ∈ [Xfer.recvSaw, .recvGbn] ∨
          s.xfer = .recvSr ∧ s.params.oooPolicy = .discard → exec i s = .next s) ∧
      (s.xfer = .recvSr → s.params.oooPolicy = .buffer →
        (hasKey p.seq.toNat s.ooo = true →
          exec i s = .next (ackAfter s (p.seq + BitVec.ofNat 32 p.payload.length))) ∧
        (hasKey p.seq.toNat s.ooo = false →
          (s.ooo.length < s.params.oooSlots ∧
              rxBytes s + p.payload.length ≤ s.params.rxCap →
            ∃ m, exec i s = .next (ackAfter { s with ooo := m }
                (p.seq + BitVec.ofNat 32 p.payload.length)) ∧
              ∀ k, lookupKey k m =
                if k = p.seq.toNat then some p.payload else lookupKey k s.ooo) ∧
          (s.params.oooSlots ≤ s.ooo.length ∨
              s.params.rxCap < rxBytes s + p.payload.length → exec i s = .next s)))

/-- R236, R237: a data packet below EXP is acknowledged with its end under every protocol; it is
stored only when its offset is not recorded, and a store refused for capacity sets RX_OVF. -/
def Obligations.DuplicateDataIsAcknowledged : Prop :=
  ∀ (s : State) (p : Packet), s.sockOpen = true → s.connState = .established →
    s.xfer ∈ [Xfer.recvSaw, .recvGbn, .recvSr] → p.payload ≠ [] → p.seq < s.exp →
    ∀ i, i = Instr.pktAck p ∨ i = .pktNone p →
      (hasKey p.seq.toNat s.rxBuf = true →
        exec i s = .next (ackAfter s (p.seq + BitVec.ofNat 32 p.payload.length))) ∧
      (hasKey p.seq.toNat s.rxBuf = false →
        (rxBytes s + p.payload.length ≤ s.params.rxCap →
          ∃ m, exec i s = .next (ackAfter { s with rxBuf := m }
              (p.seq + BitVec.ofNat 32 p.payload.length)) ∧
            ∀ k, lookupKey k m =
              if k = p.seq.toNat then some p.payload else lookupKey k s.rxBuf) ∧
        (s.params.rxCap < rxBytes s + p.payload.length →
          exec i s = .next (ackAfter { s with rxOvf := true }
            (p.seq + BitVec.ofNat 32 p.payload.length))))

/-- R239, R240: the FIN completes RECV: the FIN-ACK echoes its seq_num, DELIV holds RXBUF flattened
in ascending offset order, which fits it, and is as before elsewhere, the receiver's state is cleared,
and RTE lingers. -/
def Obligations.FinCompletesRecv : Prop :=
  ∀ (s : State) (p : Packet), s.sockOpen = true → s.connState = .established →
    s.xfer ∈ [Xfer.recvSaw, .recvGbn, .recvSr] →
    let d := (s.rxBuf.map (fun e => e.2)).flatten
    let c := if s.rxOvf then ResultCode.rxOverflow else .ok
    ∃ m, exec (.pktFin p) s = .next { s with
        deliv := m
        delivLen := BitVec.ofNat 32 d.length
        rxBuf := []
        ooo := []
        exp := 0
        connState := .closed
        xfer := .idle
        linger := true
        code := c
        out := { s.out with
          tx := s.out.tx ++
            [{ bytes := frame { seq := 0, ack := p.seq, syn := false, ackf := true, fin := true,
                                rst := false, unused := 0, win := s.cfgWin } []
               dest := s.peerAddr
               cls := .data }]
          hooks := s.out.hooks ++ [.done c]
          xferReset := true } } ∧
      (∀ a, lookupKey a m = if a < d.length then d[a]? else lookupKey a s.deliv) ∧
      d.length ≤ rxBytes s ∧ (rxBytes s ≤ s.params.rxCap → d.length ≤ s.params.rxCap)

/-! ## Timer and reset -/

/-- R266: a tick that does not reach 0 counts down and does nothing else. -/
def Obligations.TickCountsDown : Prop :=
  ∀ (s : State) (rest : List Event), s.inputs = .tick :: rest → s.tmrArmed = true → s.tmr ≠ 1 →
    step s = .next { s with inputs := rest, out := StepOutput.none, tmr := s.tmr - 1 }

/-- R157, R160, R163, R167 with R266: the tick on which the timer reaches 0 in a handshake or
teardown wait. -/
def Obligations.ExpiryInHandshakeAndTeardown : Prop :=
  ∀ (s : State) (rest : List Event), s.inputs = .tick :: rest → s.tmrArmed = true → s.tmr = 1 →
    (s.connState = .listen →
      step s = .next { s with
        inputs := rest
        tmr := s.cfgRto
        out := { StepOutput.none with hooks := [.timeout .listen s.xfer] } }) ∧
    (s.connState = .synReceived →
      step s = .next { s with
        inputs := rest
        peerAddr := 0
        hsNxt := 0
        connState := .listen
        tmr := s.cfgRto
        out := { StepOutput.none with hooks := [.timeout .synReceived s.xfer] } }) ∧
    (s.connState = .synSent →
      step s = .next { s with
        inputs := rest
        connState := .closed
        tmr := 0
        tmrArmed := false
        code := .connectFail
        out := { StepOutput.none with
          hooks := [.timeout .synSent s.xfer, .done .connectFail] } }) ∧
    (s.connState = .closing →
      step s = .next { s with
        inputs := rest
        tmr := s.cfgRto
        out := { StepOutput.none with
          tx := [{ bytes := frame { seq := s.txLen, ack := s.hsNxt, syn := false, ackf := false,
                                    fin := true, rst := false, unused := 0, win := s.cfgWin } []
                   dest := s.peerAddr
                   cls := .data }]
          hooks := [.timeout .closing s.xfer, .finRetx s.txLen] } })

/-- R198, R203, R209 with R211: the tick on which the timer reaches 0 in a running sender: SAW and SR
resend the oldest entry, GBN every entry in ascending order, each the stored datagram unchanged. -/
def Obligations.ExpiryInSenderResends : Prop :=
  ∀ (s : State) (rest : List Event), s.inputs = .tick :: rest → s.tmrArmed = true → s.tmr = 1 →
    s.connState = .established →
    (s.xfer = .sendSaw ∨ s.xfer = .sendSr →
      ∀ k e tl, s.sndBuf = (k, e) :: tl →
        step s = .next { s with
          inputs := rest
          tmr := s.cfgRto
          out := { StepOutput.none with
            tx := [{ bytes := e.dg, dest := s.peerAddr, cls := .data }]
            hooks := [.timeout .established s.xfer, .retx k] } }) ∧
    (s.xfer = .sendGbn →
      step s = .next { s with
        inputs := rest
        tmr := s.cfgRto
        out := { StepOutput.none with
          tx := s.sndBuf.map (fun c => { bytes := c.2.dg, dest := s.peerAddr, cls := .data })
          hooks := .timeout .established .sendGbn :: s.sndBuf.map (fun c => .retx c.1) } })

/-- R300, R48: RESET, in any state: every register, buffer and map takes its reset value, and nothing
is emitted. (The bytes of the two memories are unspecified after it: the statement says nothing of
them.) -/
def Obligations.ResetClearsEverything : Prop :=
  ∀ (s : State) (rest : List Event), s.inputs = .reset :: rest →
    ∃ t, step s = .next t ∧ t.params = s.params ∧ t.inputs = rest ∧
      (t.cfgMps = 0 ∧ t.cfgWin = 0 ∧ t.cfgRto = 0 ∧ t.cfgValid = false) ∧
      (t.cfgLossP = 0 ∧ t.cfgLossMax = 0 ∧ t.cfgVerbose = false) ∧
      (t.arg0 = 0 ∧ t.arg1 = 0 ∧ t.arg2 = 0 ∧ t.arg3 = 0 ∧ t.result = 0) ∧ t.code = .ok ∧
      t.connState = .closed ∧ t.xfer = .idle ∧
      (t.sockOpen = false ∧ t.linger = false ∧ t.rxOvf = false ∧ t.tmrArmed = false) ∧
      (t.localAddr = 0 ∧ t.peerAddr = 0 ∧ t.hsNxt = 0) ∧
      (t.txLen = 0 ∧ t.nxt = 0 ∧ t.exp = 0 ∧ t.delivLen = 0 ∧ t.tmr = 0) ∧
      (t.sndBuf = [] ∧ t.rxBuf = [] ∧ t.ooo = []) ∧ busy t = false ∧ rxReady t = false ∧
      t.out = { tx := [], hooks := [], xferReset := false, busData := none }

/-! ## Invariants and whole-machine rules -/

/-- The reset state meets the whole invariant. -/
def Obligations.ResetMeetsInvariant : Prop := MachineInv State.reset

/-- Every step keeps the legal combinations of R30, the legal configuration values of R20, and R170's
table of when the timer is armed. -/
def Obligations.StepKeepsControlInvariant : Prop :=
  ∀ s t : State, MachineInv s → step s = .next t → ControlInv t

/-- Every step keeps the memories and maps in canonical form and within their bounds, and the
address tags within ADDR_W bits. -/
def Obligations.StepKeepsFormInvariant : Prop :=
  ∀ s t : State, MachineInv s → step s = .next t → FormInv t

/-- Every step keeps the sender's invariants R35, R36 and R207. -/
def Obligations.StepKeepsSenderInvariant : Prop :=
  ∀ s t : State, MachineInv s → step s = .next t → SenderInv t

/-- Every step keeps the receiver's bounds R38 to R43. -/
def Obligations.StepKeepsReceiverInvariant : Prop :=
  ∀ s t : State, MachineInv s → step s = .next t → ReceiverInv t

/-- R243: while every data packet that arrives is a slice of one stream, and none below EXP is
unrecorded (rule R237 does not run), RXBUF stays the first EXP bytes of that stream, contiguously;
and the FIN then delivers exactly those bytes. -/
def Obligations.ReceiverReassemblesTheStream : Prop :=
  ∀ (d : List Byte) (s t : State) (p : Packet), d.length < 2 ^ 32 → MachineInv s → Receiving s →
    StreamInv d s → p.payload.length ≤ s.params.mpsMax →
    (∀ i, i = Instr.pktAck p ∨ i = .pktNone p → p.payload ≠ [] →
      SliceOf d p.seq.toNat p.payload → p.seq.toNat + p.payload.length ≤ d.length →
      (p.seq < s.exp → hasKey p.seq.toNat s.rxBuf = true) →
      exec i s = .next t → StreamInv d t) ∧
    (exec (.pktFin p) s = .next t →
      t.delivLen = s.exp ∧ ∀ a, a < s.exp.toNat → some (delivByte t a) = d[a]?)

/-- R118 with R120 to R126: every datagram a step emits is one of the seven packets RTE sends, with its
fields, win = CFG_WIN (R111) and class tag, goes to PEER_ADDR, keeps the bounds of R118, and is no
longer than a datagram (R110). -/
def Obligations.EmittedDatagramsAreLegal : Prop :=
  ∀ s t : State, MachineInv s → step s = .next t →
    ∀ r ∈ t.out.tx, EmittedRecord t r ∧ LegalDatagram t.cfgMps.toNat r.bytes ∧
      r.bytes.length ≤ 65535

/-- R26: CODE is written only by a CMD event, by the completion of a long-running command (which
reports the code on the hook port) and by RESET. -/
def Obligations.CodeIsWrittenOnlyWhereR26Says : Prop :=
  ∀ (s t : State) (e : Event) (rest : List Event), s.inputs = e :: rest → step s = .next t →
    t.code ≠ s.code →
    (∃ w ans, e = .hostWrite 0 w ans) ∨ HookRecord.done t.code ∈ t.out.hooks ∨ e = .reset

/-- R68, R145: while BUSY = 1 no step but RESET changes TXMEM or the configuration. -/
def Obligations.BusyLocksTxmemAndConfiguration : Prop :=
  ∀ (s t : State), busy s = true → s.inputs.head? ≠ some .reset → step s = .next t →
    t.txMem = s.txMem ∧ (∀ a, txByte t a = txByte s a) ∧ t.cfgMps = s.cfgMps ∧
    t.cfgWin = s.cfgWin ∧ t.cfgRto = s.cfgRto ∧ t.cfgValid = s.cfgValid ∧
    t.cfgLossP = s.cfgLossP ∧ t.cfgLossMax = s.cfgLossMax ∧ t.cfgVerbose = s.cfgVerbose

/-- No step changes the implementation's parameters (log entry 1). DELIV and DELIV_LEN change only
when a receiver completes on a FIN, and at RESET (R43). RESULT changes only on a command word with
RDRX's opcode, and at RESET (R24; log entry 6 for the illegal words among them). -/
def Obligations.ParametersDelivAndResultFrames : Prop :=
  ∀ s t : State, step s = .next t →
    t.params = s.params ∧
    (¬ (Receiving s ∧ t.linger = true) → s.inputs.head? ≠ some .reset →
      t.deliv = s.deliv ∧ t.delivLen = s.delivLen) ∧
    ((∀ w ans, s.inputs.head? = some (.hostWrite 0 w ans) →
        (w.extractLsb' 0 8 : Byte) ≠ 0x09) → s.inputs.head? ≠ some .reset →
      t.result = s.result)
end

