-- ==== Sys2Proof/Laws/Codec.lean ====
section
/-! SUPPORT. The byte readers and writers of the codec as numbers (spec/00_scope.md R9), the value of
a packed field, and the sizes of framed packets. The provers of the codec's claims turn bit fields
into arithmetic with these. -/

namespace Sys2Proof

/-- A field packed above another, as a number. -/
theorem toNat_packed {m n : Nat} (a : BitVec m) (b : BitVec n) :
    (a ++ b).toNat = a.toNat * 2 ^ n + b.toNat := by
  rw [BitVec.toNat_append, ← Nat.shiftLeft_add_eq_or_of_lt b.isLt, Nat.shiftLeft_eq]

/-- A field taken out of a word, as a number. -/
theorem toNat_field {n : Nat} (a : BitVec n) (lo len : Nat) :
    (a.extractLsb' lo len).toNat = a.toNat / 2 ^ lo % 2 ^ len := by
  rw [BitVec.extractLsb'_toNat, Nat.shiftRight_eq_div_pow]

@[simp] theorem isDatagram_iff (dg : List Byte) : isDatagram dg = true ↔ dg.length ≤ 65535 := by
  simp [isDatagram]

/-- Every byte string the codec accepts is a datagram: DGRAM_MAX ≤ 65535 (R6, R110). -/
theorem isDatagram_of_deframe {P : Params} (hP : P.Legal) {dg : List Byte}
    {x : Header × List Byte} (h : deframe P dg = .ok x) : isDatagram dg = true := by
  have hm : P.dgramMax ≤ 65535 := by
    obtain ⟨-, -, -, -, -, hm, -⟩ := hP
    simp only [Params.dgramMax]
    omega
  simp only [deframe] at h
  split at h
  · cases h
  · split at h
    · cases h
    · rw [isDatagram_iff]
      omega

/-- `rd_be16(b, 0)` of a string that starts with two bytes. -/
theorem rdBe16_toNat (b0 b1 : Byte) (t : List Byte) :
    (rdBe16 (b0 :: b1 :: t) 0).toNat = b0.toNat * 2 ^ 8 + b1.toNat := by
  simp only [rdBe16, byteAt, List.getD, List.getElem?_cons_succ, List.getElem?_cons_zero,
    Option.getD_some, toNat_packed]

/-- `rd_be32(b, 0)` of a string that starts with four bytes. -/
theorem rdBe32_toNat (b0 b1 b2 b3 : Byte) (t : List Byte) :
    (rdBe32 (b0 :: b1 :: b2 :: b3 :: t) 0).toNat =
      b0.toNat * 2 ^ 24 + b1.toNat * 2 ^ 16 + b2.toNat * 2 ^ 8 + b3.toNat := by
  simp only [rdBe32, byteAt, List.getD, List.getElem?_cons_succ, List.getElem?_cons_zero,
    Option.getD_some, toNat_packed]
  omega

/-- Reading back what `be16` wrote. -/
theorem be16_field (v : Half) : v.extractLsb' 8 8 ++ v.extractLsb' 0 8 = v := by
  apply BitVec.eq_of_toNat_eq
  have := v.isLt
  simp only [toNat_packed, toNat_field]
  omega

/-- Reading back what `be32` wrote. -/
theorem be32_field (v : Word) :
    v.extractLsb' 24 8 ++ v.extractLsb' 16 8 ++ v.extractLsb' 8 8 ++ v.extractLsb' 0 8 = v := by
  apply BitVec.eq_of_toNat_eq
  have := v.isLt
  simp only [toNat_packed, toNat_field]
  omega

@[simp] theorem length_be16 (v : Half) : (be16 v).length = 2 := rfl

@[simp] theorem length_be32 (v : Word) : (be32 v).length = 4 := rfl

@[simp] theorem length_encodeHdr (h : Header) : (encodeHdr h).length = 12 := rfl

@[simp] theorem length_frame (h : Header) (p : List Byte) : (frame h p).length = 12 + p.length := by
  rw [frame, List.length_append, length_encodeHdr]

/-- The payload of a framed packet starts at byte 12 (R65, R95). -/
@[simp] theorem drop_frame (h : Header) (p : List Byte) : (frame h p).drop 12 = p := rfl

/-- RST, the unused bits, the window and the numbers take no part in the class (R94, R116). -/
theorem classify_congr {h g : Header} (hs : h.syn = g.syn) (ha : h.ackf = g.ackf)
    (hf : h.fin = g.fin) : classify h = classify g := by
  unfold classify; rw [hs, ha, hf]

end Sys2Proof
end

