-- ==== Sys2Proof/Laws/Lists.lean ====
section
/-! SUPPORT. Lists by key: reading after a write or a deletion, the canonical form, sizes. Every
memory operation keeps `Memory.wf`, and every map operation `OffsetMap.wf` (the two are the same
predicate on lists of pairs). -/

namespace Sys2Proof.Machine

variable {α : Type}

/-! ## Reading one key -/

@[simp] theorem lookupKey_nil (k : Nat) : lookupKey k ([] : List (Nat × α)) = none := rfl

@[simp] theorem hasKey_nil (k : Nat) : hasKey k ([] : List (Nat × α)) = false := rfl

theorem lookupKey_cons (k a : Nat) (v : α) (t : List (Nat × α)) :
    lookupKey k ((a, v) :: t) = if k = a then some v else lookupKey k t := rfl

/-- Read after write, at the key and at every other key; it needs no canonical form. -/
theorem lookupKey_insertKey (k j : Nat) (v : α) (m : List (Nat × α)) :
    lookupKey j (insertKey k v m) = if j = k then some v else lookupKey j m := by
  induction m with
  | nil => simp [insertKey, lookupKey]
  | cons x t ih =>
    obtain ⟨a, w⟩ := x
    simp only [insertKey]
    split
    · simp [lookupKey]
    · split
      · subst a; simp only [lookupKey]; split <;> simp_all
      · simp only [lookupKey, ih]; split <;> split <;> simp_all

@[simp] theorem lookupKey_insertKey_self (k : Nat) (v : α) (m : List (Nat × α)) :
    lookupKey k (insertKey k v m) = some v := by simp [lookupKey_insertKey]

theorem hasKey_insertKey (k j : Nat) (v : α) (m : List (Nat × α)) :
    hasKey j (insertKey k v m) = (j == k || hasKey j m) := by
  unfold hasKey; rw [lookupKey_insertKey]; by_cases h : j = k <;> simp [h]

/-- A key not above every entry of a canonical list is not in its tail. -/
theorem lookupKey_eq_none_of_lt {k : Nat} {m : List (Nat × α)} (h : ∀ e ∈ m, k < e.1) :
    lookupKey k m = none := by
  induction m with
  | nil => rfl
  | cons x t ih =>
    obtain ⟨a, w⟩ := x
    have := h (a, w) (by simp)
    simp only [lookupKey]
    rw [if_neg (by simp at this; omega), ih fun e he => h e (by simp [he])]

theorem lookupKey_mem {k : Nat} {v : α} {m : List (Nat × α)} (h : lookupKey k m = some v) :
    (k, v) ∈ m := by
  induction m with
  | nil => simp at h
  | cons x t ih =>
    obtain ⟨a, w⟩ := x
    rw [lookupKey_cons] at h
    split at h
    · simp_all
    · simp [ih h]

theorem mem_lookupKey {k : Nat} {v : α} {m : List (Nat × α)}
    (hm : m.Pairwise (fun x y => x.1 < y.1)) (h : (k, v) ∈ m) : lookupKey k m = some v := by
  induction m with
  | nil => simp at h
  | cons x t ih =>
    obtain ⟨a, w⟩ := x
    rw [List.pairwise_cons] at hm
    rw [lookupKey_cons]
    rcases List.mem_cons.1 h with h | h
    · simp_all
    · have := hm.1 _ h
      rw [if_neg (by simp at this; omega), ih hm.2 h]

/-- Read after delete, at the key and at every other key. -/
theorem lookupKey_eraseKey {k j : Nat} {m : List (Nat × α)}
    (hm : m.Pairwise (fun x y => x.1 < y.1)) :
    lookupKey j (eraseKey k m) = if j = k then none else lookupKey j m := by
  induction m with
  | nil => simp [eraseKey]
  | cons x t ih =>
    obtain ⟨a, w⟩ := x
    rw [List.pairwise_cons] at hm
    simp only [eraseKey]
    split
    · subst a
      split
      · subst j; exact lookupKey_eq_none_of_lt hm.1
      · rw [lookupKey_cons, if_neg ‹_›]
    · rw [lookupKey_cons, lookupKey_cons, ih hm.2]
      by_cases h1 : j = a <;> by_cases h2 : j = k <;> simp_all

/-! ## Members and the canonical form -/

theorem mem_insertKey {k : Nat} {v : α} {m : List (Nat × α)} {e : Nat × α}
    (h : e ∈ insertKey k v m) : e = (k, v) ∨ e ∈ m := by
  induction m with
  | nil => simpa [insertKey] using h
  | cons x t ih =>
    obtain ⟨a, w⟩ := x
    simp only [insertKey] at h
    split at h
    · simpa using h
    · split at h
      · simp at h; grind
      · rcases List.mem_cons.1 h with h | h
        · simp [h]
        · rcases ih h with h | h <;> simp [h]

theorem mem_eraseKey {k : Nat} {m : List (Nat × α)} {e : Nat × α} (h : e ∈ eraseKey k m) :
    e ∈ m := by
  induction m with
  | nil => simp [eraseKey] at h
  | cons x t ih =>
    obtain ⟨a, w⟩ := x
    simp only [eraseKey] at h
    split at h
    · simp [h]
    · rcases List.mem_cons.1 h with h | h
      · simp [h]
      · simp [ih h]

/-- Writing keeps the canonical form. -/
theorem insertKey_wf {k : Nat} {v : α} {m : List (Nat × α)}
    (hm : m.Pairwise (fun x y => x.1 < y.1)) :
    (insertKey k v m).Pairwise (fun x y => x.1 < y.1) := by
  induction m with
  | nil => simp [insertKey]
  | cons x t ih =>
    obtain ⟨a, w⟩ := x
    have hm' := hm
    rw [List.pairwise_cons] at hm
    simp only [insertKey]
    split
    · rw [List.pairwise_cons]
      refine ⟨fun e he => ?_, hm'⟩
      rcases List.mem_cons.1 he with he | he
      · subst he; simpa
      · have := hm.1 e he; simp at this; simp; omega
    · split
      · subst a; rw [List.pairwise_cons]; exact ⟨fun e he => hm.1 e he, hm.2⟩
      · rw [List.pairwise_cons]
        refine ⟨fun e he => ?_, ih hm.2⟩
        rcases mem_insertKey he with he | he
        · subst he; simp; omega
        · exact hm.1 e he

/-- Deleting keeps the canonical form. -/
theorem eraseKey_wf {k : Nat} {m : List (Nat × α)} (hm : m.Pairwise (fun x y => x.1 < y.1)) :
    (eraseKey k m).Pairwise (fun x y => x.1 < y.1) := by
  induction m with
  | nil => simp [eraseKey]
  | cons x t ih =>
    obtain ⟨a, w⟩ := x
    rw [List.pairwise_cons] at hm
    simp only [eraseKey]
    split
    · exact hm.2
    · rw [List.pairwise_cons]; exact ⟨fun e he => hm.1 e (mem_eraseKey he), ih hm.2⟩

/-- A multi-byte write keeps the canonical form of a memory. -/
theorem writeBytes_wf {a : Nat} {bs : List Byte} {m : Memory} (hm : Memory.wf m) :
    Memory.wf (writeBytes a bs m) := by
  induction bs generalizing a m with
  | nil => exact hm
  | cons b bs ih => exact ih (insertKey_wf hm)

/-- The reset state's memories are canonical. -/
theorem reset_memories_wf : Memory.wf State.reset.txMem ∧ Memory.wf State.reset.deliv := by decide

/-- WRTX keeps TXMEM canonical (R151). -/
theorem wrtx_wf {s : State} (h : Memory.wf s.txMem) : Memory.wf (wrtxHandler s).txMem :=
  insertKey_wf h

/-- The delivery keeps DELIV canonical (R240). -/
theorem deliver_wf {s : State} (h : Memory.wf s.deliv) : Memory.wf (deliver s).deliv :=
  writeBytes_wf h

/-- The addresses of a multi-byte write: its own and the old ones. -/
theorem mem_writeBytes {a : Nat} {bs : List Byte} {m : Memory} {c : Host.Cell}
    (h : c ∈ writeBytes a bs m) : c ∈ m ∨ (a ≤ c.1 ∧ c.1 < a + bs.length) := by
  induction bs generalizing a m with
  | nil => exact .inl h
  | cons b bs ih =>
    rcases ih h with h | h
    · rcases mem_insertKey h with h | h
      · subst h; right; simp
      · exact .inl h
    · right; simp; omega

/-- Reading one byte after a multi-byte write. -/
theorem lookupKey_writeBytes (a j : Nat) (bs : List Byte) (m : Memory) :
    lookupKey j (writeBytes a bs m) =
      if a ≤ j ∧ j < a + bs.length then bs[j - a]? else lookupKey j m := by
  induction bs generalizing a m with
  | nil =>
    rw [if_neg (by simp)]; rfl
  | cons b bs ih =>
    simp only [writeBytes, ih, lookupKey_insertKey, List.length_cons]
    by_cases h : j = a
    · subst h
      rw [if_neg (by omega), if_pos rfl, if_pos (by omega)]; simp
    · by_cases h2 : a + 1 ≤ j ∧ j < a + 1 + bs.length
      · rw [if_pos h2, if_pos (by omega)]
        have : j - a = (j - (a + 1)) + 1 := by omega
        rw [this]; simp
      · rw [if_neg h2, if_neg h, if_neg (by omega)]

/-! ## Sizes -/

@[simp] theorem mapBytes_nil : mapBytes [] = 0 := rfl

@[simp] theorem mapBytes_cons (a : Nat) (p : List Byte) (t : OffsetMap (List Byte)) :
    mapBytes ((a, p) :: t) = p.length + mapBytes t := by simp [mapBytes]

/-- A new key adds its bytes. -/
theorem mapBytes_insertKey {k : Nat} {p : List Byte} {m : OffsetMap (List Byte)}
    (hk : hasKey k m = false) : mapBytes (insertKey k p m) = p.length + mapBytes m := by
  induction m with
  | nil => simp [insertKey]
  | cons x t ih =>
    obtain ⟨a, w⟩ := x
    simp only [hasKey, lookupKey_cons] at hk
    simp only [insertKey]
    split
    · simp
    · split
      · subst a; simp at hk
      · rw [if_neg ‹_›] at hk
        rw [mapBytes_cons, ih (by simpa [hasKey] using hk), mapBytes_cons]; omega

theorem length_insertKey {k : Nat} {v : α} {m : List (Nat × α)} (hk : hasKey k m = false) :
    (insertKey k v m).length = m.length + 1 := by
  induction m with
  | nil => simp [insertKey]
  | cons x t ih =>
    obtain ⟨a, w⟩ := x
    simp only [hasKey, lookupKey_cons] at hk
    simp only [insertKey]
    split
    · simp
    · split
      · subst a; simp at hk
      · rw [if_neg ‹_›] at hk
        simp [ih (by simpa [hasKey] using hk)]

/-- A deleted entry takes its bytes away. -/
theorem mapBytes_eraseKey {k : Nat} {q : List Byte} {m : OffsetMap (List Byte)}
    (hk : lookupKey k m = some q) : mapBytes (eraseKey k m) + q.length = mapBytes m := by
  induction m with
  | nil => simp at hk
  | cons x t ih =>
    obtain ⟨a, w⟩ := x
    rw [lookupKey_cons] at hk
    simp only [eraseKey]
    split
    · subst a; simp at hk; subst hk; simp; omega
    · rw [if_neg ‹_›] at hk; rw [mapBytes_cons, mapBytes_cons]; have := ih hk; omega

theorem length_eraseKey {k : Nat} {v : α} {m : List (Nat × α)} (hk : lookupKey k m = some v) :
    (eraseKey k m).length + 1 = m.length := by
  induction m with
  | nil => simp at hk
  | cons x t ih =>
    obtain ⟨a, w⟩ := x
    rw [lookupKey_cons] at hk
    simp only [eraseKey]
    split
    · rfl
    · rw [if_neg ‹_›] at hk; simp [ih hk]

theorem mapBytes_filter_le (f : Nat × List Byte → Bool) (m : OffsetMap (List Byte)) :
    mapBytes (m.filter f) ≤ mapBytes m := by
  induction m with
  | nil => simp
  | cons x t ih =>
    obtain ⟨a, w⟩ := x
    rw [List.filter_cons]; split <;> simp only [mapBytes_cons] <;> omega

/-- Inserting above every key appends. -/
theorem insertKey_append {k : Nat} {v : α} {m : List (Nat × α)} (h : ∀ e ∈ m, e.1 < k) :
    insertKey k v m = m ++ [(k, v)] := by
  induction m with
  | nil => rfl
  | cons x t ih =>
    obtain ⟨a, w⟩ := x
    have ha : a < k := h (a, w) (by simp)
    simp only [insertKey]
    rw [if_neg (by omega), if_neg (by omega), ih fun e he => h e (by simp [he])]; rfl

/-- In canonical form, deleting a key filters it out. -/
theorem eraseKey_eq_filter {k : Nat} {m : List (Nat × α)}
    (hm : m.Pairwise (fun x y => x.1 < y.1)) :
    eraseKey k m = m.filter (fun e => e.1 != k) := by
  induction m with
  | nil => rfl
  | cons x t ih =>
    obtain ⟨a, w⟩ := x
    rw [List.pairwise_cons] at hm
    simp only [eraseKey]
    split
    · subst a
      have : t.filter (fun e => e.1 != k) = t := by
        rw [List.filter_eq_self]; intro e he; have := hm.1 e he; simp at this; simp; omega
      simp [this]
    · rw [List.filter_cons, if_pos (by simp; omega), ih hm.2]

@[simp] theorem flatten_nil : flatten [] = [] := rfl

@[simp] theorem flatten_cons (a : Nat) (p : List Byte) (t : OffsetMap (List Byte)) :
    flatten ((a, p) :: t) = p ++ flatten t := by simp [flatten]

@[simp] theorem length_flatten (m : OffsetMap (List Byte)) : (flatten m).length = mapBytes m := by
  induction m with
  | nil => rfl
  | cons x t ih => obtain ⟨a, w⟩ := x; simp [ih]

end Sys2Proof.Machine
end

