-- ==== Sys2Proof/Laws/State.lean ====
section
/-! SUPPORT. For each basic update of the state, the value of every field after it. Each theorem is a
conjunction of equations true by `rfl`; tagged simp, it gives one rewrite rule per field, so that no
later proof unfolds a record update. -/

namespace Sys2Proof.Machine

/-- `emit` writes the TX port alone (R119). -/
@[simp] theorem emit_fields (dg : List Byte) (cls : TxClass) (s : State) :
    (emit dg cls s).params = s.params ∧ (emit dg cls s).cfgMps = s.cfgMps ∧
    (emit dg cls s).cfgWin = s.cfgWin ∧ (emit dg cls s).cfgRto = s.cfgRto ∧
    (emit dg cls s).cfgValid = s.cfgValid ∧ (emit dg cls s).cfgLossP = s.cfgLossP ∧
    (emit dg cls s).cfgLossMax = s.cfgLossMax ∧ (emit dg cls s).cfgVerbose = s.cfgVerbose ∧
    (emit dg cls s).arg0 = s.arg0 ∧ (emit dg cls s).arg1 = s.arg1 ∧ (emit dg cls s).arg2 = s.arg2 ∧
    (emit dg cls s).arg3 = s.arg3 ∧ (emit dg cls s).result = s.result ∧
    (emit dg cls s).code = s.code ∧ (emit dg cls s).connState = s.connState ∧
    (emit dg cls s).xfer = s.xfer ∧ (emit dg cls s).sockOpen = s.sockOpen ∧
    (emit dg cls s).linger = s.linger ∧ (emit dg cls s).localAddr = s.localAddr ∧
    (emit dg cls s).peerAddr = s.peerAddr ∧ (emit dg cls s).hsNxt = s.hsNxt ∧
    (emit dg cls s).txLen = s.txLen ∧ (emit dg cls s).nxt = s.nxt ∧
    (emit dg cls s).sndBuf = s.sndBuf ∧ (emit dg cls s).txMem = s.txMem ∧
    (emit dg cls s).exp = s.exp ∧ (emit dg cls s).rxBuf = s.rxBuf ∧ (emit dg cls s).ooo = s.ooo ∧
    (emit dg cls s).rxOvf = s.rxOvf ∧ (emit dg cls s).deliv = s.deliv ∧
    (emit dg cls s).delivLen = s.delivLen ∧ (emit dg cls s).tmr = s.tmr ∧
    (emit dg cls s).tmrArmed = s.tmrArmed ∧ (emit dg cls s).unit = s.unit ∧
    (emit dg cls s).resets = s.resets ∧ (emit dg cls s).answer = s.answer ∧
    (emit dg cls s).rxSrc = s.rxSrc ∧ (emit dg cls s).inputs = s.inputs ∧
    (emit dg cls s).out = { s.out with tx := s.out.tx ++ [{ bytes := dg, dest := s.peerAddr, cls }] } := by
  and_intros <;> rfl

/-- `pushHook` writes the hook port alone (R276). -/
@[simp] theorem pushHook_fields (r : HookRecord) (s : State) :
    (pushHook r s).params = s.params ∧ (pushHook r s).cfgMps = s.cfgMps ∧
    (pushHook r s).cfgWin = s.cfgWin ∧ (pushHook r s).cfgRto = s.cfgRto ∧
    (pushHook r s).cfgValid = s.cfgValid ∧ (pushHook r s).cfgLossP = s.cfgLossP ∧
    (pushHook r s).cfgLossMax = s.cfgLossMax ∧ (pushHook r s).cfgVerbose = s.cfgVerbose ∧
    (pushHook r s).arg0 = s.arg0 ∧ (pushHook r s).arg1 = s.arg1 ∧ (pushHook r s).arg2 = s.arg2 ∧
    (pushHook r s).arg3 = s.arg3 ∧ (pushHook r s).result = s.result ∧ (pushHook r s).code = s.code ∧
    (pushHook r s).connState = s.connState ∧ (pushHook r s).xfer = s.xfer ∧
    (pushHook r s).sockOpen = s.sockOpen ∧ (pushHook r s).linger = s.linger ∧
    (pushHook r s).localAddr = s.localAddr ∧ (pushHook r s).peerAddr = s.peerAddr ∧
    (pushHook r s).hsNxt = s.hsNxt ∧ (pushHook r s).txLen = s.txLen ∧ (pushHook r s).nxt = s.nxt ∧
    (pushHook r s).sndBuf = s.sndBuf ∧ (pushHook r s).txMem = s.txMem ∧ (pushHook r s).exp = s.exp ∧
    (pushHook r s).rxBuf = s.rxBuf ∧ (pushHook r s).ooo = s.ooo ∧ (pushHook r s).rxOvf = s.rxOvf ∧
    (pushHook r s).deliv = s.deliv ∧ (pushHook r s).delivLen = s.delivLen ∧
    (pushHook r s).tmr = s.tmr ∧ (pushHook r s).tmrArmed = s.tmrArmed ∧
    (pushHook r s).unit = s.unit ∧ (pushHook r s).resets = s.resets ∧
    (pushHook r s).answer = s.answer ∧ (pushHook r s).rxSrc = s.rxSrc ∧
    (pushHook r s).inputs = s.inputs ∧
    (pushHook r s).out = { s.out with hooks := s.out.hooks ++ [r] } := by
  and_intros <;> rfl

/-- `pulseXferReset` raises the pulse alone (R277). -/
@[simp] theorem pulseXferReset_fields (s : State) :
    (pulseXferReset s).params = s.params ∧ (pulseXferReset s).cfgMps = s.cfgMps ∧
    (pulseXferReset s).cfgWin = s.cfgWin ∧ (pulseXferReset s).cfgRto = s.cfgRto ∧
    (pulseXferReset s).cfgValid = s.cfgValid ∧ (pulseXferReset s).cfgLossP = s.cfgLossP ∧
    (pulseXferReset s).cfgLossMax = s.cfgLossMax ∧ (pulseXferReset s).cfgVerbose = s.cfgVerbose ∧
    (pulseXferReset s).arg0 = s.arg0 ∧ (pulseXferReset s).arg1 = s.arg1 ∧
    (pulseXferReset s).arg2 = s.arg2 ∧ (pulseXferReset s).arg3 = s.arg3 ∧
    (pulseXferReset s).result = s.result ∧ (pulseXferReset s).code = s.code ∧
    (pulseXferReset s).connState = s.connState ∧ (pulseXferReset s).xfer = s.xfer ∧
    (pulseXferReset s).sockOpen = s.sockOpen ∧ (pulseXferReset s).linger = s.linger ∧
    (pulseXferReset s).localAddr = s.localAddr ∧ (pulseXferReset s).peerAddr = s.peerAddr ∧
    (pulseXferReset s).hsNxt = s.hsNxt ∧ (pulseXferReset s).txLen = s.txLen ∧
    (pulseXferReset s).nxt = s.nxt ∧ (pulseXferReset s).sndBuf = s.sndBuf ∧
    (pulseXferReset s).txMem = s.txMem ∧ (pulseXferReset s).exp = s.exp ∧
    (pulseXferReset s).rxBuf = s.rxBuf ∧ (pulseXferReset s).ooo = s.ooo ∧
    (pulseXferReset s).rxOvf = s.rxOvf ∧ (pulseXferReset s).deliv = s.deliv ∧
    (pulseXferReset s).delivLen = s.delivLen ∧ (pulseXferReset s).tmr = s.tmr ∧
    (pulseXferReset s).tmrArmed = s.tmrArmed ∧ (pulseXferReset s).unit = s.unit ∧
    (pulseXferReset s).resets = s.resets ∧ (pulseXferReset s).answer = s.answer ∧
    (pulseXferReset s).rxSrc = s.rxSrc ∧ (pulseXferReset s).inputs = s.inputs ∧
    (pulseXferReset s).out = { s.out with xferReset := true } := by
  and_intros <;> rfl

/-- `setCode` writes CODE alone (R26). -/
@[simp] theorem setCode_fields (c : ResultCode) (s : State) :
    (setCode c s).params = s.params ∧ (setCode c s).cfgMps = s.cfgMps ∧
    (setCode c s).cfgWin = s.cfgWin ∧ (setCode c s).cfgRto = s.cfgRto ∧
    (setCode c s).cfgValid = s.cfgValid ∧ (setCode c s).cfgLossP = s.cfgLossP ∧
    (setCode c s).cfgLossMax = s.cfgLossMax ∧ (setCode c s).cfgVerbose = s.cfgVerbose ∧
    (setCode c s).arg0 = s.arg0 ∧ (setCode c s).arg1 = s.arg1 ∧ (setCode c s).arg2 = s.arg2 ∧
    (setCode c s).arg3 = s.arg3 ∧ (setCode c s).result = s.result ∧ (setCode c s).code = c ∧
    (setCode c s).connState = s.connState ∧ (setCode c s).xfer = s.xfer ∧
    (setCode c s).sockOpen = s.sockOpen ∧ (setCode c s).linger = s.linger ∧
    (setCode c s).localAddr = s.localAddr ∧ (setCode c s).peerAddr = s.peerAddr ∧
    (setCode c s).hsNxt = s.hsNxt ∧ (setCode c s).txLen = s.txLen ∧ (setCode c s).nxt = s.nxt ∧
    (setCode c s).sndBuf = s.sndBuf ∧ (setCode c s).txMem = s.txMem ∧ (setCode c s).exp = s.exp ∧
    (setCode c s).rxBuf = s.rxBuf ∧ (setCode c s).ooo = s.ooo ∧ (setCode c s).rxOvf = s.rxOvf ∧
    (setCode c s).deliv = s.deliv ∧ (setCode c s).delivLen = s.delivLen ∧
    (setCode c s).tmr = s.tmr ∧ (setCode c s).tmrArmed = s.tmrArmed ∧ (setCode c s).unit = s.unit ∧
    (setCode c s).resets = s.resets ∧ (setCode c s).answer = s.answer ∧
    (setCode c s).rxSrc = s.rxSrc ∧ (setCode c s).inputs = s.inputs ∧
    (setCode c s).out = s.out := by
  and_intros <;> rfl

/-- A refusal writes CODE alone (R262). -/
@[simp] theorem refuseCmd_fields (c : ResultCode) (s : State) :
    (refuseCmd c s).params = s.params ∧ (refuseCmd c s).cfgMps = s.cfgMps ∧
    (refuseCmd c s).cfgWin = s.cfgWin ∧ (refuseCmd c s).cfgRto = s.cfgRto ∧
    (refuseCmd c s).cfgValid = s.cfgValid ∧ (refuseCmd c s).cfgLossP = s.cfgLossP ∧
    (refuseCmd c s).cfgLossMax = s.cfgLossMax ∧ (refuseCmd c s).cfgVerbose = s.cfgVerbose ∧
    (refuseCmd c s).arg0 = s.arg0 ∧ (refuseCmd c s).arg1 = s.arg1 ∧ (refuseCmd c s).arg2 = s.arg2 ∧
    (refuseCmd c s).arg3 = s.arg3 ∧ (refuseCmd c s).result = s.result ∧ (refuseCmd c s).code = c ∧
    (refuseCmd c s).connState = s.connState ∧ (refuseCmd c s).xfer = s.xfer ∧
    (refuseCmd c s).sockOpen = s.sockOpen ∧ (refuseCmd c s).linger = s.linger ∧
    (refuseCmd c s).localAddr = s.localAddr ∧ (refuseCmd c s).peerAddr = s.peerAddr ∧
    (refuseCmd c s).hsNxt = s.hsNxt ∧ (refuseCmd c s).txLen = s.txLen ∧
    (refuseCmd c s).nxt = s.nxt ∧ (refuseCmd c s).sndBuf = s.sndBuf ∧
    (refuseCmd c s).txMem = s.txMem ∧ (refuseCmd c s).exp = s.exp ∧
    (refuseCmd c s).rxBuf = s.rxBuf ∧ (refuseCmd c s).ooo = s.ooo ∧
    (refuseCmd c s).rxOvf = s.rxOvf ∧ (refuseCmd c s).deliv = s.deliv ∧
    (refuseCmd c s).delivLen = s.delivLen ∧ (refuseCmd c s).tmr = s.tmr ∧
    (refuseCmd c s).tmrArmed = s.tmrArmed ∧ (refuseCmd c s).unit = s.unit ∧
    (refuseCmd c s).resets = s.resets ∧ (refuseCmd c s).answer = s.answer ∧
    (refuseCmd c s).rxSrc = s.rxSrc ∧ (refuseCmd c s).inputs = s.inputs ∧
    (refuseCmd c s).out = s.out := by
  and_intros <;> rfl

/-- `finish` writes CODE and one hook record (R10). -/
@[simp] theorem finish_fields (c : ResultCode) (s : State) :
    (finish c s).params = s.params ∧ (finish c s).cfgMps = s.cfgMps ∧
    (finish c s).cfgWin = s.cfgWin ∧ (finish c s).cfgRto = s.cfgRto ∧
    (finish c s).cfgValid = s.cfgValid ∧ (finish c s).cfgLossP = s.cfgLossP ∧
    (finish c s).cfgLossMax = s.cfgLossMax ∧ (finish c s).cfgVerbose = s.cfgVerbose ∧
    (finish c s).arg0 = s.arg0 ∧ (finish c s).arg1 = s.arg1 ∧ (finish c s).arg2 = s.arg2 ∧
    (finish c s).arg3 = s.arg3 ∧ (finish c s).result = s.result ∧ (finish c s).code = c ∧
    (finish c s).connState = s.connState ∧ (finish c s).xfer = s.xfer ∧
    (finish c s).sockOpen = s.sockOpen ∧ (finish c s).linger = s.linger ∧
    (finish c s).localAddr = s.localAddr ∧ (finish c s).peerAddr = s.peerAddr ∧
    (finish c s).hsNxt = s.hsNxt ∧ (finish c s).txLen = s.txLen ∧ (finish c s).nxt = s.nxt ∧
    (finish c s).sndBuf = s.sndBuf ∧ (finish c s).txMem = s.txMem ∧ (finish c s).exp = s.exp ∧
    (finish c s).rxBuf = s.rxBuf ∧ (finish c s).ooo = s.ooo ∧ (finish c s).rxOvf = s.rxOvf ∧
    (finish c s).deliv = s.deliv ∧ (finish c s).delivLen = s.delivLen ∧ (finish c s).tmr = s.tmr ∧
    (finish c s).tmrArmed = s.tmrArmed ∧ (finish c s).unit = s.unit ∧
    (finish c s).resets = s.resets ∧ (finish c s).answer = s.answer ∧ (finish c s).rxSrc = s.rxSrc ∧
    (finish c s).inputs = s.inputs ∧
    (finish c s).out = { s.out with hooks := s.out.hooks ++ [.done c] } := by
  and_intros <;> rfl

/-- `arm` writes the timer alone (R266). -/
@[simp] theorem arm_fields (s : State) :
    (arm s).params = s.params ∧ (arm s).cfgMps = s.cfgMps ∧ (arm s).cfgWin = s.cfgWin ∧
    (arm s).cfgRto = s.cfgRto ∧ (arm s).cfgValid = s.cfgValid ∧ (arm s).cfgLossP = s.cfgLossP ∧
    (arm s).cfgLossMax = s.cfgLossMax ∧ (arm s).cfgVerbose = s.cfgVerbose ∧ (arm s).arg0 = s.arg0 ∧
    (arm s).arg1 = s.arg1 ∧ (arm s).arg2 = s.arg2 ∧ (arm s).arg3 = s.arg3 ∧
    (arm s).result = s.result ∧ (arm s).code = s.code ∧ (arm s).connState = s.connState ∧
    (arm s).xfer = s.xfer ∧ (arm s).sockOpen = s.sockOpen ∧ (arm s).linger = s.linger ∧
    (arm s).localAddr = s.localAddr ∧ (arm s).peerAddr = s.peerAddr ∧ (arm s).hsNxt = s.hsNxt ∧
    (arm s).txLen = s.txLen ∧ (arm s).nxt = s.nxt ∧ (arm s).sndBuf = s.sndBuf ∧
    (arm s).txMem = s.txMem ∧ (arm s).exp = s.exp ∧ (arm s).rxBuf = s.rxBuf ∧ (arm s).ooo = s.ooo ∧
    (arm s).rxOvf = s.rxOvf ∧ (arm s).deliv = s.deliv ∧ (arm s).delivLen = s.delivLen ∧
    (arm s).tmr = s.cfgRto ∧ (arm s).tmrArmed = true ∧ (arm s).unit = s.unit ∧
    (arm s).resets = s.resets ∧ (arm s).answer = s.answer ∧ (arm s).rxSrc = s.rxSrc ∧
    (arm s).inputs = s.inputs ∧ (arm s).out = s.out := by
  and_intros <;> rfl

/-- `disarm` clears TMR_ARMED alone (R266). -/
@[simp] theorem disarm_fields (s : State) :
    (disarm s).params = s.params ∧ (disarm s).cfgMps = s.cfgMps ∧ (disarm s).cfgWin = s.cfgWin ∧
    (disarm s).cfgRto = s.cfgRto ∧ (disarm s).cfgValid = s.cfgValid ∧
    (disarm s).cfgLossP = s.cfgLossP ∧ (disarm s).cfgLossMax = s.cfgLossMax ∧
    (disarm s).cfgVerbose = s.cfgVerbose ∧ (disarm s).arg0 = s.arg0 ∧ (disarm s).arg1 = s.arg1 ∧
    (disarm s).arg2 = s.arg2 ∧ (disarm s).arg3 = s.arg3 ∧ (disarm s).result = s.result ∧
    (disarm s).code = s.code ∧ (disarm s).connState = s.connState ∧ (disarm s).xfer = s.xfer ∧
    (disarm s).sockOpen = s.sockOpen ∧ (disarm s).linger = s.linger ∧
    (disarm s).localAddr = s.localAddr ∧ (disarm s).peerAddr = s.peerAddr ∧
    (disarm s).hsNxt = s.hsNxt ∧ (disarm s).txLen = s.txLen ∧ (disarm s).nxt = s.nxt ∧
    (disarm s).sndBuf = s.sndBuf ∧ (disarm s).txMem = s.txMem ∧ (disarm s).exp = s.exp ∧
    (disarm s).rxBuf = s.rxBuf ∧ (disarm s).ooo = s.ooo ∧ (disarm s).rxOvf = s.rxOvf ∧
    (disarm s).deliv = s.deliv ∧ (disarm s).delivLen = s.delivLen ∧ (disarm s).tmr = s.tmr ∧
    (disarm s).tmrArmed = false ∧ (disarm s).unit = s.unit ∧ (disarm s).resets = s.resets ∧
    (disarm s).answer = s.answer ∧ (disarm s).rxSrc = s.rxSrc ∧ (disarm s).inputs = s.inputs ∧
    (disarm s).out = s.out := by
  and_intros <;> rfl

/-- `clearSender` writes the sender's per-transfer state alone (R49). -/
@[simp] theorem clearSender_fields (s : State) :
    (clearSender s).params = s.params ∧ (clearSender s).cfgMps = s.cfgMps ∧
    (clearSender s).cfgWin = s.cfgWin ∧ (clearSender s).cfgRto = s.cfgRto ∧
    (clearSender s).cfgValid = s.cfgValid ∧ (clearSender s).cfgLossP = s.cfgLossP ∧
    (clearSender s).cfgLossMax = s.cfgLossMax ∧ (clearSender s).cfgVerbose = s.cfgVerbose ∧
    (clearSender s).arg0 = s.arg0 ∧ (clearSender s).arg1 = s.arg1 ∧ (clearSender s).arg2 = s.arg2 ∧
    (clearSender s).arg3 = s.arg3 ∧ (clearSender s).result = s.result ∧
    (clearSender s).code = s.code ∧ (clearSender s).connState = s.connState ∧
    (clearSender s).xfer = s.xfer ∧ (clearSender s).sockOpen = s.sockOpen ∧
    (clearSender s).linger = s.linger ∧ (clearSender s).localAddr = s.localAddr ∧
    (clearSender s).peerAddr = s.peerAddr ∧ (clearSender s).hsNxt = 0 ∧ (clearSender s).txLen = 0 ∧
    (clearSender s).nxt = 0 ∧ (clearSender s).sndBuf = [] ∧ (clearSender s).txMem = s.txMem ∧
    (clearSender s).exp = s.exp ∧ (clearSender s).rxBuf = s.rxBuf ∧ (clearSender s).ooo = s.ooo ∧
    (clearSender s).rxOvf = s.rxOvf ∧ (clearSender s).deliv = s.deliv ∧
    (clearSender s).delivLen = s.delivLen ∧ (clearSender s).tmr = s.tmr ∧
    (clearSender s).tmrArmed = s.tmrArmed ∧ (clearSender s).unit = s.unit ∧
    (clearSender s).resets = s.resets ∧ (clearSender s).answer = s.answer ∧
    (clearSender s).rxSrc = s.rxSrc ∧ (clearSender s).inputs = s.inputs ∧
    (clearSender s).out = s.out := by
  and_intros <;> rfl

/-- `dropEntry` writes SNDBUF alone (R196). -/
@[simp] theorem dropEntry_fields (k : Nat) (s : State) :
    (dropEntry k s).params = s.params ∧ (dropEntry k s).cfgMps = s.cfgMps ∧
    (dropEntry k s).cfgWin = s.cfgWin ∧ (dropEntry k s).cfgRto = s.cfgRto ∧
    (dropEntry k s).cfgValid = s.cfgValid ∧ (dropEntry k s).cfgLossP = s.cfgLossP ∧
    (dropEntry k s).cfgLossMax = s.cfgLossMax ∧ (dropEntry k s).cfgVerbose = s.cfgVerbose ∧
    (dropEntry k s).arg0 = s.arg0 ∧ (dropEntry k s).arg1 = s.arg1 ∧ (dropEntry k s).arg2 = s.arg2 ∧
    (dropEntry k s).arg3 = s.arg3 ∧ (dropEntry k s).result = s.result ∧
    (dropEntry k s).code = s.code ∧ (dropEntry k s).connState = s.connState ∧
    (dropEntry k s).xfer = s.xfer ∧ (dropEntry k s).sockOpen = s.sockOpen ∧
    (dropEntry k s).linger = s.linger ∧ (dropEntry k s).localAddr = s.localAddr ∧
    (dropEntry k s).peerAddr = s.peerAddr ∧ (dropEntry k s).hsNxt = s.hsNxt ∧
    (dropEntry k s).txLen = s.txLen ∧ (dropEntry k s).nxt = s.nxt ∧
    (dropEntry k s).sndBuf = eraseKey k s.sndBuf ∧ (dropEntry k s).txMem = s.txMem ∧
    (dropEntry k s).exp = s.exp ∧ (dropEntry k s).rxBuf = s.rxBuf ∧ (dropEntry k s).ooo = s.ooo ∧
    (dropEntry k s).rxOvf = s.rxOvf ∧ (dropEntry k s).deliv = s.deliv ∧
    (dropEntry k s).delivLen = s.delivLen ∧ (dropEntry k s).tmr = s.tmr ∧
    (dropEntry k s).tmrArmed = s.tmrArmed ∧ (dropEntry k s).unit = s.unit ∧
    (dropEntry k s).resets = s.resets ∧ (dropEntry k s).answer = s.answer ∧
    (dropEntry k s).rxSrc = s.rxSrc ∧ (dropEntry k s).inputs = s.inputs ∧
    (dropEntry k s).out = s.out := by
  and_intros <;> rfl

/-- `retransmit` writes the TX port and the hook port alone (R194). -/
@[simp] theorem retransmit_fields (k : Nat) (e : SndEntry) (s : State) :
    (retransmit k e s).params = s.params ∧ (retransmit k e s).cfgMps = s.cfgMps ∧
    (retransmit k e s).cfgWin = s.cfgWin ∧ (retransmit k e s).cfgRto = s.cfgRto ∧
    (retransmit k e s).cfgValid = s.cfgValid ∧ (retransmit k e s).cfgLossP = s.cfgLossP ∧
    (retransmit k e s).cfgLossMax = s.cfgLossMax ∧ (retransmit k e s).cfgVerbose = s.cfgVerbose ∧
    (retransmit k e s).arg0 = s.arg0 ∧ (retransmit k e s).arg1 = s.arg1 ∧
    (retransmit k e s).arg2 = s.arg2 ∧ (retransmit k e s).arg3 = s.arg3 ∧
    (retransmit k e s).result = s.result ∧ (retransmit k e s).code = s.code ∧
    (retransmit k e s).connState = s.connState ∧ (retransmit k e s).xfer = s.xfer ∧
    (retransmit k e s).sockOpen = s.sockOpen ∧ (retransmit k e s).linger = s.linger ∧
    (retransmit k e s).localAddr = s.localAddr ∧ (retransmit k e s).peerAddr = s.peerAddr ∧
    (retransmit k e s).hsNxt = s.hsNxt ∧ (retransmit k e s).txLen = s.txLen ∧
    (retransmit k e s).nxt = s.nxt ∧ (retransmit k e s).sndBuf = s.sndBuf ∧
    (retransmit k e s).txMem = s.txMem ∧ (retransmit k e s).exp = s.exp ∧
    (retransmit k e s).rxBuf = s.rxBuf ∧ (retransmit k e s).ooo = s.ooo ∧
    (retransmit k e s).rxOvf = s.rxOvf ∧ (retransmit k e s).deliv = s.deliv ∧
    (retransmit k e s).delivLen = s.delivLen ∧ (retransmit k e s).tmr = s.tmr ∧
    (retransmit k e s).tmrArmed = s.tmrArmed ∧ (retransmit k e s).unit = s.unit ∧
    (retransmit k e s).resets = s.resets ∧ (retransmit k e s).answer = s.answer ∧
    (retransmit k e s).rxSrc = s.rxSrc ∧ (retransmit k e s).inputs = s.inputs ∧
    (retransmit k e s).out = { s.out with tx := s.out.tx ++ [{ bytes := e.dg, dest := s.peerAddr, cls := .data }], hooks := s.out.hooks ++ [.retx k] } := by
  and_intros <;> rfl

/-- `storeRx` writes RXBUF alone (R238). -/
@[simp] theorem storeRx_fields (p : Packet) (s : State) :
    (storeRx p s).params = s.params ∧ (storeRx p s).cfgMps = s.cfgMps ∧
    (storeRx p s).cfgWin = s.cfgWin ∧ (storeRx p s).cfgRto = s.cfgRto ∧
    (storeRx p s).cfgValid = s.cfgValid ∧ (storeRx p s).cfgLossP = s.cfgLossP ∧
    (storeRx p s).cfgLossMax = s.cfgLossMax ∧ (storeRx p s).cfgVerbose = s.cfgVerbose ∧
    (storeRx p s).arg0 = s.arg0 ∧ (storeRx p s).arg1 = s.arg1 ∧ (storeRx p s).arg2 = s.arg2 ∧
    (storeRx p s).arg3 = s.arg3 ∧ (storeRx p s).result = s.result ∧ (storeRx p s).code = s.code ∧
    (storeRx p s).connState = s.connState ∧ (storeRx p s).xfer = s.xfer ∧
    (storeRx p s).sockOpen = s.sockOpen ∧ (storeRx p s).linger = s.linger ∧
    (storeRx p s).localAddr = s.localAddr ∧ (storeRx p s).peerAddr = s.peerAddr ∧
    (storeRx p s).hsNxt = s.hsNxt ∧ (storeRx p s).txLen = s.txLen ∧ (storeRx p s).nxt = s.nxt ∧
    (storeRx p s).sndBuf = s.sndBuf ∧ (storeRx p s).txMem = s.txMem ∧ (storeRx p s).exp = s.exp ∧
    (storeRx p s).rxBuf = insertKey p.seq.toNat p.payload s.rxBuf ∧ (storeRx p s).ooo = s.ooo ∧
    (storeRx p s).rxOvf = s.rxOvf ∧ (storeRx p s).deliv = s.deliv ∧
    (storeRx p s).delivLen = s.delivLen ∧ (storeRx p s).tmr = s.tmr ∧
    (storeRx p s).tmrArmed = s.tmrArmed ∧ (storeRx p s).unit = s.unit ∧
    (storeRx p s).resets = s.resets ∧ (storeRx p s).answer = s.answer ∧
    (storeRx p s).rxSrc = s.rxSrc ∧ (storeRx p s).inputs = s.inputs ∧
    (storeRx p s).out = s.out := by
  and_intros <;> rfl

/-- `deliver` writes DELIV and DELIV_LEN alone (R240). -/
@[simp] theorem deliver_fields (s : State) :
    (deliver s).params = s.params ∧ (deliver s).cfgMps = s.cfgMps ∧ (deliver s).cfgWin = s.cfgWin ∧
    (deliver s).cfgRto = s.cfgRto ∧ (deliver s).cfgValid = s.cfgValid ∧
    (deliver s).cfgLossP = s.cfgLossP ∧ (deliver s).cfgLossMax = s.cfgLossMax ∧
    (deliver s).cfgVerbose = s.cfgVerbose ∧ (deliver s).arg0 = s.arg0 ∧ (deliver s).arg1 = s.arg1 ∧
    (deliver s).arg2 = s.arg2 ∧ (deliver s).arg3 = s.arg3 ∧ (deliver s).result = s.result ∧
    (deliver s).code = s.code ∧ (deliver s).connState = s.connState ∧ (deliver s).xfer = s.xfer ∧
    (deliver s).sockOpen = s.sockOpen ∧ (deliver s).linger = s.linger ∧
    (deliver s).localAddr = s.localAddr ∧ (deliver s).peerAddr = s.peerAddr ∧
    (deliver s).hsNxt = s.hsNxt ∧ (deliver s).txLen = s.txLen ∧ (deliver s).nxt = s.nxt ∧
    (deliver s).sndBuf = s.sndBuf ∧ (deliver s).txMem = s.txMem ∧ (deliver s).exp = s.exp ∧
    (deliver s).rxBuf = s.rxBuf ∧ (deliver s).ooo = s.ooo ∧ (deliver s).rxOvf = s.rxOvf ∧
    (deliver s).deliv = writeBytes 0 (flatten s.rxBuf) s.deliv ∧
    (deliver s).delivLen = BitVec.ofNat 32 (flatten s.rxBuf).length ∧ (deliver s).tmr = s.tmr ∧
    (deliver s).tmrArmed = s.tmrArmed ∧ (deliver s).unit = s.unit ∧ (deliver s).resets = s.resets ∧
    (deliver s).answer = s.answer ∧ (deliver s).rxSrc = s.rxSrc ∧ (deliver s).inputs = s.inputs ∧
    (deliver s).out = s.out := by
  and_intros <;> rfl

/-- `beginStep` takes the event and empties the output ports (R45). -/
@[simp] theorem beginStep_fields (rest : List Event) (s : State) :
    (beginStep rest s).params = s.params ∧ (beginStep rest s).cfgMps = s.cfgMps ∧
    (beginStep rest s).cfgWin = s.cfgWin ∧ (beginStep rest s).cfgRto = s.cfgRto ∧
    (beginStep rest s).cfgValid = s.cfgValid ∧ (beginStep rest s).cfgLossP = s.cfgLossP ∧
    (beginStep rest s).cfgLossMax = s.cfgLossMax ∧ (beginStep rest s).cfgVerbose = s.cfgVerbose ∧
    (beginStep rest s).arg0 = s.arg0 ∧ (beginStep rest s).arg1 = s.arg1 ∧
    (beginStep rest s).arg2 = s.arg2 ∧ (beginStep rest s).arg3 = s.arg3 ∧
    (beginStep rest s).result = s.result ∧ (beginStep rest s).code = s.code ∧
    (beginStep rest s).connState = s.connState ∧ (beginStep rest s).xfer = s.xfer ∧
    (beginStep rest s).sockOpen = s.sockOpen ∧ (beginStep rest s).linger = s.linger ∧
    (beginStep rest s).localAddr = s.localAddr ∧ (beginStep rest s).peerAddr = s.peerAddr ∧
    (beginStep rest s).hsNxt = s.hsNxt ∧ (beginStep rest s).txLen = s.txLen ∧
    (beginStep rest s).nxt = s.nxt ∧ (beginStep rest s).sndBuf = s.sndBuf ∧
    (beginStep rest s).txMem = s.txMem ∧ (beginStep rest s).exp = s.exp ∧
    (beginStep rest s).rxBuf = s.rxBuf ∧ (beginStep rest s).ooo = s.ooo ∧
    (beginStep rest s).rxOvf = s.rxOvf ∧ (beginStep rest s).deliv = s.deliv ∧
    (beginStep rest s).delivLen = s.delivLen ∧ (beginStep rest s).tmr = s.tmr ∧
    (beginStep rest s).tmrArmed = s.tmrArmed ∧ (beginStep rest s).unit = s.unit ∧
    (beginStep rest s).resets = s.resets ∧ (beginStep rest s).answer = s.answer ∧
    (beginStep rest s).rxSrc = s.rxSrc ∧ (beginStep rest s).inputs = rest ∧
    (beginStep rest s).out = StepOutput.none := by
  and_intros <;> rfl

/-- `restartWait` writes nothing but the timer (R144). -/
@[simp] theorem restartWait_fields (s : State) :
    (restartWait s).params = s.params ∧ (restartWait s).cfgMps = s.cfgMps ∧
    (restartWait s).cfgWin = s.cfgWin ∧ (restartWait s).cfgRto = s.cfgRto ∧
    (restartWait s).cfgValid = s.cfgValid ∧ (restartWait s).cfgLossP = s.cfgLossP ∧
    (restartWait s).cfgLossMax = s.cfgLossMax ∧ (restartWait s).cfgVerbose = s.cfgVerbose ∧
    (restartWait s).arg0 = s.arg0 ∧ (restartWait s).arg1 = s.arg1 ∧ (restartWait s).arg2 = s.arg2 ∧
    (restartWait s).arg3 = s.arg3 ∧ (restartWait s).result = s.result ∧
    (restartWait s).code = s.code ∧ (restartWait s).connState = s.connState ∧
    (restartWait s).xfer = s.xfer ∧ (restartWait s).sockOpen = s.sockOpen ∧
    (restartWait s).linger = s.linger ∧ (restartWait s).localAddr = s.localAddr ∧
    (restartWait s).peerAddr = s.peerAddr ∧ (restartWait s).hsNxt = s.hsNxt ∧
    (restartWait s).txLen = s.txLen ∧ (restartWait s).nxt = s.nxt ∧
    (restartWait s).sndBuf = s.sndBuf ∧ (restartWait s).txMem = s.txMem ∧
    (restartWait s).exp = s.exp ∧ (restartWait s).rxBuf = s.rxBuf ∧ (restartWait s).ooo = s.ooo ∧
    (restartWait s).rxOvf = s.rxOvf ∧ (restartWait s).deliv = s.deliv ∧
    (restartWait s).delivLen = s.delivLen ∧ (restartWait s).unit = s.unit ∧
    (restartWait s).resets = s.resets ∧ (restartWait s).answer = s.answer ∧
    (restartWait s).rxSrc = s.rxSrc ∧ (restartWait s).inputs = s.inputs ∧
    (restartWait s).out = s.out := by
  unfold restartWait; split <;> simp

/-- `ignorePacket` writes nothing but the timer (R144). -/
@[simp] theorem ignorePacket_fields (s : State) :
    (ignorePacket s).params = s.params ∧ (ignorePacket s).cfgMps = s.cfgMps ∧
    (ignorePacket s).cfgWin = s.cfgWin ∧ (ignorePacket s).cfgRto = s.cfgRto ∧
    (ignorePacket s).cfgValid = s.cfgValid ∧ (ignorePacket s).cfgLossP = s.cfgLossP ∧
    (ignorePacket s).cfgLossMax = s.cfgLossMax ∧ (ignorePacket s).cfgVerbose = s.cfgVerbose ∧
    (ignorePacket s).arg0 = s.arg0 ∧ (ignorePacket s).arg1 = s.arg1 ∧
    (ignorePacket s).arg2 = s.arg2 ∧ (ignorePacket s).arg3 = s.arg3 ∧
    (ignorePacket s).result = s.result ∧ (ignorePacket s).code = s.code ∧
    (ignorePacket s).connState = s.connState ∧ (ignorePacket s).xfer = s.xfer ∧
    (ignorePacket s).sockOpen = s.sockOpen ∧ (ignorePacket s).linger = s.linger ∧
    (ignorePacket s).localAddr = s.localAddr ∧ (ignorePacket s).peerAddr = s.peerAddr ∧
    (ignorePacket s).hsNxt = s.hsNxt ∧ (ignorePacket s).txLen = s.txLen ∧
    (ignorePacket s).nxt = s.nxt ∧ (ignorePacket s).sndBuf = s.sndBuf ∧
    (ignorePacket s).txMem = s.txMem ∧ (ignorePacket s).exp = s.exp ∧
    (ignorePacket s).rxBuf = s.rxBuf ∧ (ignorePacket s).ooo = s.ooo ∧
    (ignorePacket s).rxOvf = s.rxOvf ∧ (ignorePacket s).deliv = s.deliv ∧
    (ignorePacket s).delivLen = s.delivLen ∧ (ignorePacket s).unit = s.unit ∧
    (ignorePacket s).resets = s.resets ∧ (ignorePacket s).answer = s.answer ∧
    (ignorePacket s).rxSrc = s.rxSrc ∧ (ignorePacket s).inputs = s.inputs ∧
    (ignorePacket s).out = s.out := by
  unfold ignorePacket restartWait; split <;> simp

end Sys2Proof.Machine
end

