-- ==== Sys2Proof/Laws/Ops.lean ====
section
/-! SUPPORT. What each shared operation can do, said once: the operands and their ranges, the command
dispatch, the readiness gate, the chunk loop of the senders, the merge loop of the receiver. The
provers cite these and do not unfold the operations. -/

namespace Sys2Proof.Machine

/-! ## Operands (R82) -/

theorem opMps_toNat (s : State) : (opMps s).toNat = s.arg0.toNat % 2 ^ 16 := by simp [opMps]

theorem opWin_toNat (s : State) : (opWin s).toNat = s.arg0.toNat / 2 ^ 16 := by
  have := s.arg0.isLt
  simp only [opWin, BitVec.extractLsb'_toNat, Nat.shiftRight_eq_div_pow]
  omega

theorem opAddr64_toNat (s : State) : (opAddr64 s).toNat = addrOperand s := by
  have h := s.arg0.isLt
  simp only [opAddr64, addrOperand, BitVec.toNat_append]
  rw [← Nat.shiftLeft_add_eq_or_of_lt h, Nat.shiftLeft_eq]

theorem opAddr_of_lt {s : State} (h : addrOperand s < 2 ^ s.params.addrW) :
    opAddr s = BitVec.ofNat 64 (addrOperand s) := by
  unfold opAddr tagOf; rw [opAddr64_toNat, Nat.mod_eq_of_lt h]

/-- An address tag has no bit at or above ADDR_W (R32). -/
theorem tagOf_lt (P : Params) (a : Addr) (h : P.addrW ≤ 64) :
    (tagOf P a).toNat < 2 ^ P.addrW := by
  have h1 : a.toNat % 2 ^ P.addrW < 2 ^ P.addrW := Nat.mod_lt _ (by positivity)
  have h2 : 2 ^ P.addrW ≤ 2 ^ 64 := Nat.pow_le_pow_right (by omega) h
  simp only [tagOf, BitVec.toNat_ofNat]
  rwa [Nat.mod_eq_of_lt (by omega)]

theorem addrInRange_iff (s : State) :
    addrInRange s = true ↔ addrOperand s < 2 ^ s.params.addrW := by
  simp [addrInRange, opAddr64_toNat]

theorem lenInRange_iff (s : State) : lenInRange s = true ↔ s.arg0.toNat ≤ s.params.txCap := by
  unfold lenInRange; rw [decide_eq_true_eq]; rfl

theorem txAddrInRange_iff (s : State) :
    txAddrInRange s = true ↔ s.arg0.toNat < s.params.txCap := by
  unfold txAddrInRange; rw [decide_eq_true_eq]; rfl

theorem delivAddrInRange_iff (s : State) :
    delivAddrInRange s = true ↔ s.arg0.toNat < s.delivLen.toNat := by
  unfold delivAddrInRange; rw [decide_eq_true_eq]; rfl

theorem configLegal_iff (s : State) :
    configLegal s = true ↔
      1 ≤ s.arg0.toNat % 2 ^ 16 ∧ s.arg0.toNat % 2 ^ 16 ≤ s.params.mpsMax ∧
      1 ≤ s.arg0.toNat / 2 ^ 16 ∧ s.arg0.toNat / 2 ^ 16 ≤ s.params.wMax ∧ 1 ≤ s.arg1.toNat := by
  unfold configLegal
  simp only [Bool.and_eq_true, decide_eq_true_eq, opMps_toNat, opWin_toNat]
  unfold opRto; tauto

/-! ## Flags -/

/-- BUSY (R27), where CLOSING is busy through XFER. -/
theorem busy_iff (s : State) :
    busy s = true ↔ s.connState = .listen ∨ s.connState = .synSent ∨
      s.connState = .synReceived ∨ s.xfer ≠ .idle := by
  unfold busy; cases s.connState <;> simp

theorem rxReady_iff (s : State) :
    rxReady s = true ↔ s.sockOpen = true ∧
      (s.connState = .listen ∨ s.connState = .synSent ∨ s.connState = .synReceived ∨
        s.connState = .closing ∨ (s.connState = .established ∧ s.xfer ≠ .idle) ∨
        (s.connState = .closed ∧ s.linger = true)) := by
  unfold rxReady; cases s.connState <;> simp

/-! ## Commands -/

/-- A command whose checks all pass runs its handler with CODE = OK (R140). -/
theorem runCmd_ok {c : CmdCheck} {s : State} (handler : State → State)
    (h : checkCmd c s = .ok) : runCmd c handler s = handler { s with code := .ok } := by
  simp [runCmd, h, setCode]

/-- A refused command writes CODE and nothing else (R262). -/
theorem runCmd_refused {c : CmdCheck} {s : State} {r : ResultCode} (handler : State → State)
    (h : checkCmd c s = r) (hr : r ≠ .ok) : runCmd c handler s = { s with code := r } := by
  subst h; unfold runCmd; split
  · exact absurd ‹_› hr
  · rfl

/-- A command either runs its handler, past every check, or writes CODE and nothing else. -/
theorem runCmd_cases (c : CmdCheck) (handler : State → State) (s : State) :
    ((busy s = false ∨ c.whileBusy = true) ∧ c.stateOk = true ∧ c.configOk = true ∧
        c.rangeOk = true ∧ runCmd c handler s = handler { s with code := .ok }) ∨
      ∃ r, r ≠ .ok ∧ runCmd c handler s = { s with code := r } := by
  by_cases h : checkCmd c s = .ok
  · left
    have h' := h
    simp only [checkCmd] at h
    split at h
    · simp at h
    · split at h
      · simp at h
      · split at h
        · simp at h
        · split at h
          · simp at h
          · refine ⟨?_, ?_, ?_, ?_, runCmd_ok handler h'⟩
            · by_cases hb : busy s = true <;> simp_all
            all_goals simp_all
  · exact .inr ⟨_, h, runCmd_refused handler rfl h⟩

/-! ## Received datagrams -/

theorem whenReady_of_ready {s : State} (handler : State → State) (h : rxReady s = true) :
    whenReady handler s = handler s := by simp [whenReady, h]

theorem whenReady_of_not {s : State} (handler : State → State) (h : rxReady s = false) :
    whenReady handler s = s := by simp [whenReady, h]

/-- An ignored packet re-arms the timer in the states R144 lists, and does nothing else. -/
theorem ignorePacket_eq (s : State) :
    ignorePacket s =
      if waitRestarts s = true then { s with tmr := s.cfgRto, tmrArmed := true } else s := rfl

/-! ## The sender's chunk loop (R193, R199) -/

theorem chunkLen_le (s : State) (o : Nat) : chunkLen s o ≤ s.cfgMps.toNat := Nat.min_le_left _ _

theorem txByte_of_eq {s t : State} (h1 : t.txMem = s.txMem) (h2 : t.resets = s.resets)
    (h3 : t.unit = s.unit) (a : Nat) : txByte t a = txByte s a := by simp [txByte, h1, h2, h3]

/-- `SendChunk()` writes SNDBUF, NXT and the TX port. -/
theorem sendChunk_eq (s : State) :
    sendChunk s =
      { s with
        sndBuf := insertKey s.nxt.toNat (chunkEntry s s.txLen.toNat s.nxt.toNat).2 s.sndBuf
        nxt := s.nxt + BitVec.ofNat 32 (chunkLen s s.nxt.toNat)
        out := { s.out with
          tx := s.out.tx ++ [chunkRecord s s.txLen.toNat s.nxt.toNat] } } := rfl

/-- NXT after a chunk: it does not wrap and does not pass TX_LEN. -/
theorem sendChunk_nxt (s : State) (h : s.nxt.toNat ≤ s.txLen.toNat) :
    (sendChunk s).nxt.toNat = min s.txLen.toNat (s.nxt.toNat + s.cfgMps.toNat) := by
  have := s.txLen.isLt
  simp only [sendChunk_eq, BitVec.toNat_add, BitVec.toNat_ofNat, chunkLen]
  omega

/-- What `FillWindow()` did: some number of chunks, one after the other. -/
def chunksSent : Nat → State → State
  | 0, s => s
  | n + 1, s => chunksSent n (sendChunk s)

/-- `FillWindow()` sends some number of chunks, each while the window has room and bytes are unsent,
and (with CFG_MPS ≥ 1) stops only when the window is full or every byte is sent. -/
theorem fillRounds_spec (f : Nat) (s : State) (hm : 1 ≤ s.cfgMps.toNat)
    (hn : s.nxt.toNat ≤ s.txLen.toNat) (hf : s.txLen.toNat - s.nxt.toNat ≤ f) :
    ∃ n, fillRounds f s = chunksSent n s ∧
      (∀ j, j < n → (chunksSent j s).sndBuf.length < s.cfgWin.toNat ∧
        (chunksSent j s).nxt.toNat < s.txLen.toNat) ∧
      (s.cfgWin.toNat ≤ (chunksSent n s).sndBuf.length ∨ (chunksSent n s).nxt = s.txLen) := by
  induction f generalizing s with
  | zero =>
    refine ⟨0, rfl, by simp, .inr (BitVec.eq_of_toNat_eq ?_)⟩
    simp only [chunksSent]; omega
  | succ f ih =>
    simp only [fillRounds]
    split
    · next h =>
      have h2 : s.nxt.toNat < s.txLen.toNat := h.2
      have hx := sendChunk_nxt s hn
      obtain ⟨n, e1, e2, e3⟩ := ih (sendChunk s) hm
        (by rw [hx]; exact Nat.min_le_left _ _)
        (by rw [hx]; simp only [sendChunk_eq]; omega)
      refine ⟨n + 1, e1, ?_, e3⟩
      intro j hj
      cases j with
      | zero => exact ⟨h.1, h2⟩
      | succ j => exact e2 j (by omega)
    · next h =>
      refine ⟨0, rfl, by simp, ?_⟩
      rw [not_and_or] at h
      rcases h with h | h
      · exact .inl (by simpa [chunksSent] using h)
      · right; apply BitVec.eq_of_toNat_eq
        have : ¬ s.nxt.toNat < s.txLen.toNat := h
        simp only [chunksSent]; omega

/-- A property of states that every sent chunk keeps, `FillWindow()` keeps. -/
theorem fillRounds_keeps {Q : State → Prop} (f : Nat) (s : State)
    (hQ : ∀ s, s.sndBuf.length < s.cfgWin.toNat → s.nxt < s.txLen → Q s → Q (sendChunk s))
    (h : Q s) : Q (fillRounds f s) := by
  induction f generalizing s with
  | zero => exact h
  | succ f ih =>
    simp only [fillRounds]
    split
    · next hc => exact ih _ (hQ s hc.1 hc.2 h)
    · exact h

/-- `FillWindow()` changes SNDBUF, NXT and the TX port alone. -/
theorem fillWindow_frame (s : State) :
    ∃ b n t, fillWindow s =
      { s with sndBuf := b, nxt := n, out := { s.out with tx := s.out.tx ++ t } } := by
  refine fillRounds_keeps (Q := fun u => ∃ b n t, u =
    { s with sndBuf := b, nxt := n, out := { s.out with tx := s.out.tx ++ t } }) _ _ ?_ ?_
  · rintro u - - ⟨b, n, t, rfl⟩
    rw [sendChunk_eq]
    exact ⟨_, _, t ++ [_], by simp only [List.append_assoc]; rfl⟩
  · exact ⟨s.sndBuf, s.nxt, [], by simp⟩

/-- `Retransmit` of a list of entries emits their stored datagrams, in order, with one hook record
each, and changes nothing else (R194, R203). -/
theorem retransmitAll_eq (l : List (Nat × SndEntry)) (s : State) :
    retransmitAll l s =
      { s with out := { s.out with
        tx := s.out.tx ++
          l.map (fun c => { bytes := c.2.dg, dest := s.peerAddr, cls := .data })
        hooks := s.out.hooks ++ l.map (fun c => .retx c.1) } } := by
  induction l generalizing s with
  | nil => simp [retransmitAll]
  | cons x t ih =>
    obtain ⟨k, e⟩ := x
    rw [retransmitAll, ih]
    simp [retransmit, emit, pushHook]

/-! ## The receiver's merge loop (R233) -/

/-- A property of states that every move keeps, the moves keep. -/
theorem mergeRounds_keeps {Q : State → Prop} (f : Nat) (s : State)
    (hQ : ∀ (s : State) (q : List Byte), lookupKey s.exp.toNat s.ooo = some q → Q s →
      Q { s with
        ooo := eraseKey s.exp.toNat s.ooo
        rxBuf := insertKey s.exp.toNat q s.rxBuf
        exp := s.exp + BitVec.ofNat 32 q.length })
    (h : Q s) : Q (mergeRounds f s) := by
  induction f generalizing s with
  | zero => exact h
  | succ f ih =>
    simp only [mergeRounds]
    split
    · exact h
    · next q hq => exact ih _ (hQ s q hq h)

/-- After the moves nothing adjoins: EXP is not a key of OOO. -/
theorem mergeRounds_drained (f : Nat) (s : State) (hf : s.ooo.length ≤ f) :
    lookupKey (mergeRounds f s).exp.toNat (mergeRounds f s).ooo = none := by
  induction f generalizing s with
  | zero =>
    have : s.ooo = [] := List.length_eq_zero_iff.1 (by omega)
    simp [mergeRounds, this]
  | succ f ih =>
    simp only [mergeRounds]
    split
    · assumption
    · next q hq =>
      apply ih
      have := length_eraseKey hq
      simp only; omega

/-- `Merge()` changes OOO, RXBUF and EXP alone. -/
theorem merge_frame (s : State) :
    ∃ o r e, merge s = { s with ooo := o, rxBuf := r, exp := e } := by
  have : ∃ o r e, mergeRounds s.ooo.length s = { s with ooo := o, rxBuf := r, exp := e } := by
    refine mergeRounds_keeps (Q := fun u => ∃ o r e, u = { s with ooo := o, rxBuf := r, exp := e })
      _ _ ?_ ⟨s.ooo, s.rxBuf, s.exp, rfl⟩
    rintro u q - ⟨o, r, e, rfl⟩
    exact ⟨_, _, _, rfl⟩
  obtain ⟨o, r, e, h⟩ := this
  exact ⟨_, r, e, by rw [merge, h]; rfl⟩

/-! ## The step around an event -/

/-- A step takes the first pending event (R8). -/
theorem step_of_inputs {s : State} {e : Event} {rest : List Event} (h : s.inputs = e :: rest) :
    step s = eventStep e (beginStep rest s) := by simp only [step, h]

/-- Taking the event and emptying the output ports changes no flag. -/
@[simp] theorem rxReady_beginStep (rest : List Event) (s : State) :
    rxReady (beginStep rest s) = rxReady s := rfl

@[simp] theorem busy_beginStep (rest : List Event) (s : State) :
    busy (beginStep rest s) = busy s := rfl

/-- An RX event of a datagram that decodes, while `rx_ready` = 1, runs the instruction (R142). -/
theorem rxEvent_decoded {s : State} {dg : List Byte} {i : Instr} (h : rxReady s = true)
    (hd : isDatagram dg = true) (hi : decodeWire s.params dg = .ok i) (src : Addr) :
    rxEvent dg src s = exec i { s with rxSrc := tagOf s.params src } := by
  simp only [rxEvent, h, hd, hi, Bool.and_self, if_true]

/-- An RX event of a malformed datagram while `rx_ready` = 1 drops it (R142, R263). -/
theorem rxEvent_malformed {s : State} {dg : List Byte} {e : FramingError} (h : rxReady s = true)
    (hd : isDatagram dg = true) (he : decodeWire s.params dg = .error e) (src : Addr) :
    rxEvent dg src s = .next (dropMalformed e.len s) := by
  simp only [rxEvent, h, hd, he, Bool.and_self, if_true]

/-- Any other RX event does nothing (R141, R110). -/
theorem rxEvent_of_not {s : State} {dg : List Byte} (h : (rxReady s && isDatagram dg) = false)
    (src : Addr) : rxEvent dg src s = .next s := by
  simp only [rxEvent, h, Bool.false_eq_true, if_false]

/-! ## Every step goes on -/

/-- `exec` answers a next state for every instruction: RTE has no fault and no refusal. -/
theorem exec_next (i : Instr) (s : State) : ∃ t, exec i s = .next t := by
  cases i <;> exact ⟨_, rfl⟩

/-- From every state a step answers a next state (R117: the codec fails closed; R270: no trap). -/
theorem step_next (s : State) : ∃ t, step s = .next t := by
  unfold step
  split
  · exact ⟨_, rfl⟩
  · next e rest _ =>
    cases e with
    | hostWrite a d ans =>
      simp only [eventStep, hostWriteEvent, cmdEvent]
      split
      · split
        · exact exec_next _ _
        · exact ⟨_, rfl⟩
      · exact ⟨_, rfl⟩
    | hostRead a => exact ⟨_, rfl⟩
    | rx dg src =>
      simp only [eventStep, rxEvent]
      split
      · split
        · exact exec_next _ _
        · exact ⟨_, rfl⟩
      · exact ⟨_, rfl⟩
    | tick => exact ⟨_, rfl⟩
    | reset => exact ⟨_, rfl⟩

end Sys2Proof.Machine
end

