-- ==== Sys2Proof/Laws/Env.lean ====
section
/-! SUPPORT. What the environment devices guarantee (spec/60_exceptions.md R272 to R274;
spec/70_reset_and_hazards.md R302): the injector's draws and budget, and the start of a link. -/

namespace Sys2Proof.Machine

/-! ## Draws -/

/-- A draw lies in [1, round(1/p)]. -/
theorem LossSource.draw_mem (src : LossSource) {w : Word} (h : 0 < src.range w) (n : Nat) :
    1 ≤ src.draw w n ∧ src.draw w n ≤ src.range w := by
  have := Nat.mod_lt (src.raw n) h
  simp only [LossSource.draw]
  omega

/-- Each value of [1, round(1/p)] is the draw of exactly one of the first round(1/p) raw numbers: a
uniform source gives uniform draws. -/
theorem LossSource.draw_uniform (src : LossSource) {w : Word} {n r : Nat}
    (h : src.raw n < src.range w) : src.draw w n = r + 1 ↔ src.raw n = r := by
  simp [LossSource.draw, Nat.mod_eq_of_lt h]

/-! ## One datagram -/

/-- Handshake datagrams always pass (R274, R119). -/
theorem Injector.pass_hs {t : TxRecord} (h : t.cls = .hs) (src : LossSource) (w : Word)
    (m : BitVec 31) (inj : Injector) : inj.pass src w m t = (some t, inj) := by
  simp [Injector.pass, Injector.draws, h]

/-- With no budget left every datagram passes (R274). -/
theorem Injector.pass_exhausted {inj : Injector} {m : BitVec 31} (h : inj.remaining m = 0)
    (src : LossSource) (w : Word) (t : TxRecord) : (inj.pass src w m t).1 = some t := by
  simp only [Injector.pass, Injector.draws, h]
  split <;> simp_all
  split <;> rfl

/-- With p = 0 every datagram passes (90_conflicts.md C5). -/
theorem Injector.pass_disabled {src : LossSource} {w : Word} (h : src.range w = 0)
    (m : BitVec 31) (t : TxRecord) (inj : Injector) : (inj.pass src w m t).1 = some t := by
  simp only [Injector.pass, Injector.draws, h]
  split <;> simp_all
  split <;> rfl

/-- With p = 1 every DATA datagram is dropped while the budget lasts. -/
theorem Injector.pass_certain {src : LossSource} {w : Word} (h : src.range w = 1) {m : BitVec 31}
    {t : TxRecord} (hc : t.cls = .data) {inj : Injector} (hb : 0 < inj.remaining m) :
    (inj.pass src w m t).1 = none := by
  simp [Injector.pass, Injector.draws, LossSource.draw, h, hc, hb, Nat.mod_one]

/-- The first DATA datagram meets a budget of CFG_LOSS_MAX. -/
theorem Injector.start_remaining (m : BitVec 31) : Injector.start.remaining m = m.toNat := rfl

/-- A datagram is passed on at no cost, or dropped for one of the budget. -/
theorem Injector.pass_spec (src : LossSource) (w : Word) (m : BitVec 31) (t : TxRecord)
    (inj : Injector) :
    (inj.pass src w m t).1 = some t ∧
        (inj.pass src w m t).2.remaining m = inj.remaining m ∨
      (inj.pass src w m t).1 = none ∧
        (inj.pass src w m t).2.remaining m + 1 = inj.remaining m := by
  simp only [Injector.pass]
  split
  · next hd =>
    have hb : 0 < inj.remaining m := by simp [Injector.draws] at hd; omega
    split
    · exact .inr ⟨rfl, Nat.sub_add_cancel hb⟩
    · exact .inl ⟨rfl, rfl⟩
  · split
    · exact .inl ⟨rfl, rfl⟩
    · exact .inl ⟨rfl, rfl⟩

/-! ## The datagrams of a step -/

/-- What comes out of the injector is a part of what went in, in the same order, and each datagram
missing has cost one of the budget. -/
theorem Injector.passAll_spec (src : LossSource) (w : Word) (m : BitVec 31) (ts : List TxRecord)
    (inj : Injector) :
    (inj.passAll src w m ts).1.Sublist ts ∧
      (inj.passAll src w m ts).1.length + inj.remaining m =
        ts.length + (inj.passAll src w m ts).2.remaining m := by
  induction ts generalizing inj with
  | nil => exact ⟨List.Sublist.refl _, by simp [Injector.passAll]⟩
  | cons t ts ih =>
    obtain ⟨h1, h2⟩ := ih (inj.pass src w m t).2
    simp only [Injector.passAll, List.length_append, List.length_cons]
    obtain ⟨ho, hb⟩ | ⟨ho, hb⟩ := Injector.pass_spec src w m t inj
    · simp only [ho, Option.toList_some, List.cons_append, List.nil_append, List.length_cons,
        List.length_nil]
      exact ⟨h1.cons_cons t, by omega⟩
    · simp only [ho, Option.toList_none, List.nil_append, List.length_nil]
      exact ⟨h1.cons t, by omega⟩

/-- No more datagrams are lost than the budget allows (R274). -/
theorem Injector.passAll_loss (src : LossSource) (w : Word) (m : BitVec 31) (ts : List TxRecord)
    (inj : Injector) : ts.length ≤ (inj.passAll src w m ts).1.length + inj.remaining m := by
  have := (Injector.passAll_spec src w m ts inj).2
  omega

/-- After the pulse the budget is CFG_LOSS_MAX again (R277). -/
theorem Injector.onStep_pulse (src : LossSource) {s : State} (h : s.out.xferReset = true)
    (inj : Injector) : (inj.onStep src s).2.budget = some s.cfgLossMax.toNat := by
  simp [Injector.onStep, h, Injector.reload]

/-! ## Links -/

@[simp] theorem Link.get_put (l : Link) (side : Side) (e : Endpoint) : (l.put side e).get side = e := by
  cases side <;> rfl

/-- Replacing one end leaves the other as it is (R272: they share no state). -/
theorem Link.put_other (l : Link) (e : Endpoint) :
    (l.put .left e).right = l.right ∧ (l.put .right e).left = l.left := ⟨rfl, rfl⟩

/-- An event at one end leaves the other end as it is (R272). -/
theorem Link.at_other (src : Side → LossSource) (l : Link) (e : Event) :
    (l.at_ src .left e).right = l.right ∧ (l.at_ src .right e).left = l.left := by
  constructor <;> (simp only [Link.at_]; split <;> rfl)

/-- What is forged into the channel is a datagram (R110). -/
theorem Link.forge_flights (src : Side → LossSource) (l : Link) (f : Flight)
    (h : ∀ g ∈ l.flights, isDatagram g.bytes = true) :
    ∀ g ∈ (l.advance src (.forge f)).flights, isDatagram g.bytes = true := by
  intro g hg
  simp only [Link.advance] at hg
  split at hg
  · next hf =>
    rcases List.mem_append.mp hg with hg | hg
    · exact h g hg
    · rw [List.mem_singleton.mp hg]
      exact hf
  · exact h g hg

/-- At the start both instances are quiescent and read their own draws (R302, R37). -/
theorem Link.start_draws (PL PR : Params) (hl hr : List HostStep) (a : Nat) :
    txByte (Link.start PL PR hl hr).left.rte a = Config.txMemDraw 0 0 a ∧
    txByte (Link.start PL PR hl hr).right.rte a = Config.txMemDraw 1 0 a := ⟨rfl, rfl⟩

/-- A `WAIT` is over exactly when the word read shows BUSY = 0 (R86). -/
theorem HostStep.wait_after (d : Word) :
    HostStep.wait.after (some d) = if d.getLsbD 4 then some [.wait] else some [] := by
  simp [HostStep.after, waitOver]
  split <;> simp_all

/-! ## The end of a run (R311) -/

/-- A run that is over has an instance that is not busy, so no command is in progress. -/
theorem Endpoint.runOver_iff (e : Endpoint) :
    e.runOver = true ↔
      (∀ h ∈ e.host, h.issuesCommand = false) ∧ e.accepted = true ∧ busy e.rte = false := by
  simp [Endpoint.runOver, and_assoc]

theorem Link.transferOver_iff (l : Link) :
    l.transferOver = true ↔ busy l.left.rte = false ∧ busy l.right.rte = false := by
  simp [Link.transferOver]

/-- An event adds to an end's TX record exactly what the instance emits, whatever the injector then
drops. -/
theorem Link.at_sent (src : Side → LossSource) (l : Link) (side : Side) (e : Event) {s : State}
    (h : eventStep e (beginStep (l.get side).rte.inputs (l.get side).rte) = .next s) :
    ((l.at_ src side e).get side).sent = (l.get side).sent ++ s.out.tx := by
  simp only [Link.at_, h]
  cases side <;> rfl

/-- A check that fails is one of the refusals. -/
theorem checkCmd_isRefusal (c : CmdCheck) (s : State) :
    (checkCmd c s).isRefusal = false ↔ checkCmd c s = .ok := by
  unfold checkCmd
  repeat' split
  all_goals decide

/-- What a packet does in linger: it puts at most a FIN-ACK on the TX port (R168, R169). -/
theorem exec_in_linger {i : Instr} (hw : ∀ w, encode i ≠ .cmd w) {s : State}
    (hc : s.connState = .closed) {t : State} (h : exec i s = .next t) :
    ∃ o, t = { s with out := o } := by
  cases i
  case pktFin p =>
    simp only [exec, execPktFin, whenReady, onFin, hc] at h
    split at h <;> cases h
    · exact ⟨_, rfl⟩
    · exact ⟨s.out, rfl⟩
  all_goals first
    | exact absurd rfl (hw _)
    | (simp only [exec, execPktSyn, execPktSynack, execPktAck, execPktNone, execPktFinack,
        execPktInvalidSynfin, execPktInvalidSynackfin, whenReady, onSyn, onSynack, onAck, onNone,
        onFinack, ignorePacket, restartWait, waitRestarts, hc, Bool.false_eq_true, if_false,
        ite_self] at h
       cases h
       exact ⟨s.out, rfl⟩)

/-- In linger a datagram changes nothing observable of the instance but the TX record (R311). -/
theorem rxEvent_in_linger {s t : State} (hc : s.connState = .closed) {dg : List Byte} {src : Addr}
    (h : rxEvent dg src s = .next t) :
    statusWord t = statusWord s ∧ t.result = s.result ∧ t.deliv = s.deliv ∧
      t.delivLen = s.delivLen := by
  simp only [rxEvent] at h
  split at h
  · split at h
    · next i hi =>
      have hw : ∀ w, encode i ≠ .cmd w := by
        intro w hw
        simp only [decodeWire] at hi
        split at hi
        · cases hi
          simp only [wireInstr] at hw
          split at hw <;> first | cases hw | (split at hw <;> cases hw)
        · cases hi
      obtain ⟨o, rfl⟩ := exec_in_linger hw (by exact hc) h
      exact ⟨rfl, rfl, rfl, rfl⟩
    · cases h
      simp [dropMalformed, restartWait, waitRestarts, hc, statusWord, busy]
  · cases h
    exact ⟨rfl, rfl, rfl, rfl⟩

end Sys2Proof.Machine
end

