-- ==== Sys2Proof/Laws/PerInstr.lean ====
section
/-! SUPPORT. Statements made once per constructor of `Instr`, about the instruction as syntax. The
family `TableRow` says that an instruction's encoding has the match bits of its row of
spec/opcode_table.json under the row's mask. -/

namespace Sys2Proof.Laws.TableRow

/-- A row of the opcode table: its match bits, and whether it is a 32-bit command row or a row on the
16-bit flags word of a datagram. -/
def row : Instr → Sum Word Half
  | .configure => .inl 0x00000001
  | .bind => .inl 0x00000002
  | .listen => .inl 0x00000003
  | .connect => .inl 0x00000004
  | .sendSaw => .inl 0x00000005
  | .sendGbn => .inl 0x00000105
  | .sendSr => .inl 0x00000205
  | .recvSaw => .inl 0x00000006
  | .recvGbn => .inl 0x00000106
  | .recvSr => .inl 0x00000206
  | .close => .inl 0x00000007
  | .wrtx => .inl 0x00000008
  | .rdrx => .inl 0x00000009
  | .pktSyn _ => .inr 0x8000
  | .pktSynack _ => .inr 0xC000
  | .pktAck _ => .inr 0x4000
  | .pktNone _ => .inr 0x0000
  | .pktFin _ => .inr 0x2000
  | .pktFinack _ => .inr 0x6000
  | .pktInvalidSynfin _ => .inr 0xA000
  | .pktInvalidSynackfin _ => .inr 0xE000

/-- The encoding of an instruction is of its row: the whole word for a command (mask 0xFFFFFFFF), the
top three bits of the flags word for a packet (mask 0xE000). -/
def Statement (i : Instr) : Prop :=
  match encode i, row i with
  | .cmd w, .inl m => w &&& 0xFFFFFFFF = m
  | .wire dg, .inr m => rdBe16 dg 8 &&& 0xE000 = m
  | .cmd _, .inr _ => False
  | .wire _, .inl _ => False

/-- The flags word of a packet's datagram. -/
theorem flags_datagram (p : Packet) (s a f : Bool) :
    rdBe16 (p.datagram s a f) 8 = flagword (p.header s a f) := be16_field _

/-- The mask 0xE000 keeps the top three bits. -/
theorem mask_eq (x : Half) : x &&& 0xE000 = x.extractLsb' 13 3 ++ (0 : BitVec 13) := by
  have h : (0xE000 : Half) = (7 : BitVec 3) ++ (0 : BitVec 13) := by decide
  have hx : x = x.extractLsb' 13 3 ++ x.extractLsb' 0 13 := by
    apply BitVec.eq_of_toNat_eq
    have := x.isLt
    simp only [toNat_packed, toNat_field]
    omega
  rw [h]
  conv_lhs => rw [hx]
  rw [BitVec.and_append]
  congr 1
  · generalize x.extractLsb' 13 3 = y
    revert y; decide
  · simp

/-- The class bits of a flags word stand at bits 15, 14 and 13; RST and the unused bits do not reach
them. -/
theorem class_bits (p : Packet) (s a f : Bool) :
    flagword (p.header s a f) &&& 0xE000 =
      (BitVec.ofBool s ++ BitVec.ofBool a ++ BitVec.ofBool f : BitVec 3) ++ (0 : BitVec 13) := by
  rw [mask_eq]
  congr 1
  apply BitVec.eq_of_toNat_eq
  have := p.unused.isLt
  have := p.rst.toNat_lt
  have := f.toNat_lt
  simp only [flagword, Packet.header, toNat_packed, toNat_field, BitVec.toNat_ofBool]
  have := a.toNat_lt
  have := s.toNat_lt
  omega

theorem configure : Statement .configure := rfl
theorem bind : Statement .bind := rfl
theorem listen : Statement .listen := rfl
theorem connect : Statement .connect := rfl
theorem sendSaw : Statement .sendSaw := rfl
theorem sendGbn : Statement .sendGbn := rfl
theorem sendSr : Statement .sendSr := rfl
theorem recvSaw : Statement .recvSaw := rfl
theorem recvGbn : Statement .recvGbn := rfl
theorem recvSr : Statement .recvSr := rfl
theorem close : Statement .close := rfl
theorem wrtx : Statement .wrtx := rfl
theorem rdrx : Statement .rdrx := rfl
theorem pktSyn (p : Packet) : Statement (.pktSyn p) := by
  simp only [Statement, encode, row, flags_datagram, class_bits]; decide
theorem pktSynack (p : Packet) : Statement (.pktSynack p) := by
  simp only [Statement, encode, row, flags_datagram, class_bits]; decide
theorem pktAck (p : Packet) : Statement (.pktAck p) := by
  simp only [Statement, encode, row, flags_datagram, class_bits]; decide
theorem pktNone (p : Packet) : Statement (.pktNone p) := by
  simp only [Statement, encode, row, flags_datagram, class_bits]; decide
theorem pktFin (p : Packet) : Statement (.pktFin p) := by
  simp only [Statement, encode, row, flags_datagram, class_bits]; decide
theorem pktFinack (p : Packet) : Statement (.pktFinack p) := by
  simp only [Statement, encode, row, flags_datagram, class_bits]; decide
theorem pktInvalidSynfin (p : Packet) : Statement (.pktInvalidSynfin p) := by
  simp only [Statement, encode, row, flags_datagram, class_bits]; decide
theorem pktInvalidSynackfin (p : Packet) : Statement (.pktInvalidSynackfin p) := by
  simp only [Statement, encode, row, flags_datagram, class_bits]; decide

end Sys2Proof.Laws.TableRow
end

