-- ==== Sys2Proof/Tests/Slice0.lean ====
section
/-! SUPPORT. The model's own tests. Expected results come from the spec: the tables and examples of
its rules and the vectors of spec/95_test_vectors.md, named by their ids. A `witness_` theorem shows
a concrete state that meets the hypotheses of an obligation, clause by clause. -/

namespace Sys2Proof.Tests

open Sys2Proof.Machine

/-- The next state of an outcome. -/
def ran (o : Host.Outcome State Fault Refusal) : Option State :=
  match o with
  | .next s => some s
  | .fault _ => none
  | .refused _ => none

/-! ## WellFormed: each check has an ill-formed term that it refuses -/

/-- An implementation with `MPS_MAX = 3`. -/
def tiny : Params := { Params.suggested with mpsMax := 3 }

/-- A packet with the given payload. -/
def pkt (seq ack : Word) (payload : List Byte) : Packet := ⟨seq, ack, false, 0, 0, payload⟩

/-- One byte more than `tiny` accepts. -/
def tooLong : Packet := pkt 0 0 [1, 2, 3, 4]

theorem test_wellFormed_refuses_long_payload :
    (∀ i ∈ [Instr.pktSyn tooLong, .pktSynack tooLong, .pktAck tooLong, .pktNone tooLong,
      .pktFin tooLong, .pktFinack tooLong, .pktInvalidSynfin tooLong,
      .pktInvalidSynackfin tooLong], i.wellFormed tiny = false) ∧
    Instr.wellFormed tiny (.pktAck (pkt 0 0 [1, 2, 3])) = true ∧
    Instr.wellFormed tiny .sendSr = true := by decide

/-- R6's constraint column, one broken constraint each. -/
theorem test_params_legal :
    Params.suggested.Legal ∧ ¬ Params.Legal ⟨0, 1, 1, 1, 0, 1, .buffer⟩ ∧
    ¬ Params.Legal ⟨4294967296, 1, 1, 1, 0, 1, .buffer⟩ ∧
    ¬ Params.Legal ⟨1, 0, 1, 1, 0, 1, .buffer⟩ ∧
    ¬ Params.Legal ⟨1, 4294967296, 1, 1, 0, 1, .buffer⟩ ∧
    ¬ Params.Legal ⟨1, 1, 0, 1, 0, 1, .buffer⟩ ∧ ¬ Params.Legal ⟨1, 1, 65524, 1, 0, 1, .buffer⟩ ∧
    ¬ Params.Legal ⟨1, 1, 1, 0, 0, 1, .buffer⟩ ∧ ¬ Params.Legal ⟨1, 1, 1, 65536, 0, 1, .buffer⟩ ∧
    ¬ Params.Legal ⟨1, 1, 1, 1, 65536, 1, .buffer⟩ ∧ ¬ Params.Legal ⟨1, 1, 1, 1, 0, 0, .buffer⟩ ∧
    ¬ Params.Legal ⟨1, 1, 1, 1, 0, 65, .buffer⟩ ∧
    Params.Legal ⟨4294967295, 4294967295, 65523, 65535, 65535, 64, .discard⟩ := by
  and_intros <;> decide

/-! ## Decoding: the word of every row, written out from R80, R81, R83, R85 and R93 -/

theorem test_decode_lifecycle_words :
    decodeTableWord 32 0x00000001 = some .configure ∧ decodeTableWord 32 0x00000002 = some .bind ∧
    decodeTableWord 32 0x00000003 = some .listen ∧ decodeTableWord 32 0x00000004 = some .connect ∧
    decodeTableWord 32 0x00000007 = some .close ∧ decodeTableWord 32 0x00000008 = some .wrtx ∧
    decodeTableWord 32 0x00000009 = some .rdrx := by decide

theorem test_decode_transfer_words :
    decodeTableWord 32 0x00000005 = some .sendSaw ∧ decodeTableWord 32 0x00000105 = some .sendGbn ∧
    decodeTableWord 32 0x00000205 = some .sendSr ∧ decodeTableWord 32 0x00000006 = some .recvSaw ∧
    decodeTableWord 32 0x00000106 = some .recvGbn ∧
    decodeTableWord 32 0x00000206 = some .recvSr := by decide

theorem test_decode_wire_words :
    decodeTableWord 16 0x8000 = some (.pktSyn (pkt 0 0 [])) ∧
    decodeTableWord 16 0xC000 = some (.pktSynack (pkt 0 0 [])) ∧
    decodeTableWord 16 0x4000 = some (.pktAck (pkt 0 0 [])) ∧
    decodeTableWord 16 0x0000 = some (.pktNone (pkt 0 0 [])) ∧
    decodeTableWord 16 0x2000 = some (.pktFin (pkt 0 0 [])) ∧
    decodeTableWord 16 0x6000 = some (.pktFinack (pkt 0 0 [])) ∧
    decodeTableWord 16 0xA000 = some (.pktInvalidSynfin (pkt 0 0 [])) ∧
    decodeTableWord 16 0xE000 = some (.pktInvalidSynackfin (pkt 0 0 [])) := by decide

/-- Q1 to Q5: words that are no command. -/
theorem test_decode_refuses_words :
    decodeCmd 0x00000000 = .error (.reservedOpcode 0) ∧
    decodeCmd 0x0000000A = .error (.reservedOpcode 0x0A) ∧
    decodeCmd 0x000000FF = .error (.reservedOpcode 0xFF) ∧
    decodeCmd 0x00000401 = .error (.reservedBits 1) ∧
    decodeCmd 0x80000009 = .error (.reservedBits 9) ∧
    decodeCmd 0x00000107 = .error (.protoNotTaken 7) ∧
    decodeCmd 0x00000305 = .error (.protoReserved 5) ∧
    decodeCmd 0x00000306 = .error (.protoReserved 6) := by
  refine ⟨?_, ?_, ?_, ?_, ?_, ?_, ?_, ?_⟩ <;> rfl

/-- K5, K6, K7 for `MPS_MAX = 3`: lengths 0, 11, 16 are no packet, 12 and 15 are. -/
theorem test_deframe_lengths :
    deframe tiny [] = .error ⟨0⟩ ∧ deframe tiny (List.replicate 11 0) = .error ⟨11⟩ ∧
    deframe tiny (List.replicate 16 0) = .error ⟨16⟩ ∧
    deframe tiny (List.replicate 12 0) = .ok (⟨0, 0, false, false, false, false, 0, 0⟩, []) ∧
    deframe tiny (List.replicate 15 0) = .ok (⟨0, 0, false, false, false, false, 0, 0⟩, [0, 0, 0]) := by
  refine ⟨?_, ?_, ?_, ?_, ?_⟩ <;> rfl

/-- K3: twelve FF. -/
theorem test_deframe_all_ones :
    deframe tiny (List.replicate 12 0xFF) =
      .ok (⟨0xFFFFFFFF, 0xFFFFFFFF, true, true, true, true, 0xFFF, 0xFFFF⟩, []) := rfl

/-- K8, K9: RST and the unused bits take no part in the class. -/
theorem test_class_ignores_rst_and_unused :
    decodeTableWord 16 0x9000 = some (.pktSyn ⟨0, 0, true, 0, 0, []⟩) ∧
    decodeTableWord 16 0x8FFF = some (.pktSyn ⟨0, 0, false, 0xFFF, 0, []⟩) ∧
    decodeTableWord 16 0x5000 = some (.pktAck ⟨0, 0, true, 0, 0, []⟩) ∧
    decodeTableWord 16 0x1000 = some (.pktNone ⟨0, 0, true, 0, 0, []⟩) := by decide

/-- The examples of R111 and R113, and K2. -/
theorem test_encode_packets :
    encode (.pktAck ⟨1000, 1, false, 0, 4, [0x61, 0x62, 0x63]⟩) =
      .wire [0, 0, 3, 0xE8, 0, 0, 0, 1, 0x40, 0, 0, 4, 0x61, 0x62, 0x63] ∧
    encode (.pktSyn ⟨0xFFFFFFFF, 0, false, 0, 4, []⟩) =
      .wire [0xFF, 0xFF, 0xFF, 0xFF, 0, 0, 0, 0, 0x80, 0, 0, 4] ∧
    encode .recvSr = .cmd 0x00000206 := by decide

/-! ## States -/

/-- `CONFIGURE 1000, 4, 50` from reset: the vectors' configuration, at the configuration's reset
state otherwise (CLOSED, no socket). -/
def configured : State :=
  { State.reset with cfgMps := 1000, cfgWin := 4, cfgRto := 50, cfgValid := true }

def bound : State := { configured with sockOpen := true, localAddr := 0xB }

def listening : State := { bound with connState := .listen, tmr := 20, tmrArmed := true }

def synReceived : State :=
  { listening with connState := .synReceived, peerAddr := 0xA, hsNxt := 1 }

def synSent : State :=
  { bound with connState := .synSent, peerAddr := 0xA, tmr := 20, tmrArmed := true }

def established : State :=
  { bound with connState := .established, peerAddr := 0xA, hsNxt := 1 }

/-- Program P3's configuration and bytes: `CONFIGURE 3, 3, 10` and "abcdefgh" in TXMEM. -/
def loaded : State :=
  { established with
    cfgMps := 3
    cfgWin := 3
    cfgRto := 10
    txMem := [(0, 0x61), (1, 0x62), (2, 0x63), (3, 0x64), (4, 0x65), (5, 0x66), (6, 0x67),
      (7, 0x68)] }

/-- The data packets of P3's sender X. -/
def dg0 : List Byte := [0, 0, 0, 0, 0, 0, 0, 1, 0x40, 0, 0, 3, 0x61, 0x62, 0x63]
def dg3 : List Byte := [0, 0, 0, 3, 0, 0, 0, 1, 0x40, 0, 0, 3, 0x64, 0x65, 0x66]
def dg6 : List Byte := [0, 0, 0, 6, 0, 0, 0, 1, 0x40, 0, 0, 3, 0x67, 0x68]

/-- After the burst of `SEND.x 8`: keys 0, 3, 6, every byte sent. -/
def sending (x : Xfer) : State :=
  { loaded with
    xfer := x
    txLen := 8
    nxt := 8
    sndBuf := [(0, ⟨3, dg0⟩), (3, ⟨3, dg3⟩), (6, ⟨2, dg6⟩)]
    tmr := 7
    tmrArmed := true }

/-- The same bytes with CFG_MPS = 2: keys 0, 2, 4 fill the window, and two bytes are unsent. -/
def sendingPart (x : Xfer) : State :=
  { loaded with
    cfgMps := 2
    xfer := x
    txLen := 8
    nxt := 6
    sndBuf := [(0, ⟨2, [0, 0, 0, 0, 0, 0, 0, 1, 0x40, 0, 0, 3, 0x61, 0x62]⟩),
      (2, ⟨2, [0, 0, 0, 2, 0, 0, 0, 1, 0x40, 0, 0, 3, 0x63, 0x64]⟩),
      (4, ⟨2, [0, 0, 0, 4, 0, 0, 0, 1, 0x40, 0, 0, 3, 0x65, 0x66]⟩)]
    tmr := 7
    tmrArmed := true }

def sendingSaw : State := { sending .sendSaw with nxt := 3, sndBuf := [(0, ⟨3, dg0⟩)] }

/-- The last chunk outstanding. -/
def sendingLast (x : Xfer) : State := { sending x with sndBuf := [(6, ⟨2, dg6⟩)] }

def closing : State :=
  { loaded with connState := .closing, xfer := .sendGbn, txLen := 8, nxt := 8, tmr := 7,
                tmrArmed := true }

/-- P3's receiver after DATA 0 and DATA 6. -/
def receiving (x : Xfer) : State :=
  { loaded with xfer := x, exp := 3, rxBuf := [(0, [0x61, 0x62, 0x63])] }

def receivingSr : State := { receiving .recvSr with ooo := [(6, [0x67, 0x68])] }

def lingering : State :=
  { loaded with connState := .closed, linger := true,
                deliv := [(0, 0x61), (1, 0x62), (2, 0x63)], delivLen := 3 }

/-! ## STATUS (the table of spec/95_test_vectors.md) -/

theorem test_status_words :
    statusWord State.reset = 0x00000000 ∧ statusWord configured = 0x00004000 ∧
    statusWord bound = 0x00004800 ∧ statusWord listening = 0x0000C830 ∧
    statusWord synSent = 0x0000C850 ∧ statusWord synReceived = 0x0000C870 ∧
    statusWord established = 0x00004880 ∧ statusWord (sending .sendSaw) = 0x0000C990 ∧
    statusWord (sending .sendGbn) = 0x0000CA90 ∧ statusWord (sending .sendSr) = 0x0000CB90 ∧
    statusWord (receiving .recvSaw) = 0x00004C90 ∧ statusWord (receiving .recvGbn) = 0x00004D90 ∧
    statusWord (receiving .recvSr) = 0x00004E90 ∧ statusWord closing = 0x0000CAB0 ∧
    statusWord lingering = 0x00005800 := by decide

/-! ## Commands -/

/-- Q12. -/
theorem test_configure :
    (ran (exec .configure { State.reset with arg0 := 0x000403E8, arg1 := 0x32 })).map
      (fun t => (t.cfgMps, t.cfgWin, t.cfgRto, t.cfgValid, t.code)) =
      some (1000, 4, 50, true, .ok) := by decide

/-- Q9: an illegal CONFIGURE leaves the configuration. -/
theorem test_configure_mps_zero :
    (ran (exec .configure { configured with arg0 := 0x00040000, arg1 := 0x32 })).map
      (fun t => (t.cfgMps, t.code)) = some (1000, .errConfig) := by decide

/-- Q20: ADDR_W = 48, bit 48 set; no draw is made. -/
theorem test_bind_out_of_range :
    (ran (exec .bind { configured with arg0 := 0xB, arg1 := 0x00010000 })).map
      (fun t => (t.code, t.sockOpen)) = some (.errRange, false) := by decide

theorem test_bind :
    (ran (exec .bind { configured with arg0 := 0xB, arg1 := 0x0000FFFF })).map
      (fun t => (t.code, t.sockOpen, t.localAddr)) =
      some (.ok, true, 0x0000FFFF0000000B) := by decide

/-- R148's example. -/
theorem test_listen :
    (ran (exec .listen bound)).map statusWord = some 0x0000C830 ∧
    (ran (exec .listen State.reset)).map statusWord = some 0x00000003 := by decide

/-- R149's example. -/
theorem test_connect :
    (ran (exec .connect { configured with arg0 := 0xB })).map
      (fun t => (statusWord t, t.peerAddr, t.out.tx)) =
      some (0x0000C850, 0xB, [⟨[0, 0, 0, 0, 0, 0, 0, 0, 0x80, 0, 0, 4], 0xB, .hs⟩]) := by decide

/-- M21. -/
theorem test_connect_no_resource :
    (ran (exec .connect { configured with answer := ⟨.ok, .resource⟩ })).map
      (fun t => (statusWord t, t.out.tx)) = some (0x00004009, []) := by decide

/-- R150's example, during SEND.GBN with three entries. -/
theorem test_close :
    (ran (exec .close (sending .sendGbn))).map
      (fun t => (statusWord t, t.sndBuf, t.out.xferReset, t.out.tx)) =
      some (0x00004000, [], true, []) := by decide

/-- Q15 at the last byte: ARG1[31:8] are ignored. -/
theorem test_wrtx :
    (ran (exec .wrtx { configured with arg0 := 65535, arg1 := 0x1FF })).map
      (fun t => (t.txMem, t.code)) = some ([(65535, 0xFF)], .ok) := by decide

/-- Q16, Q22. -/
theorem test_wrtx_refused :
    (ran (exec .wrtx { configured with arg0 := 65536 })).map (fun t => (t.txMem, t.code)) =
      some ([], .errRange) ∧
    (ran (exec .wrtx (sending .sendSr))).map (fun t => t.code) = some .errBusy := by decide

/-- R152's example, busy or not. -/
theorem test_rdrx :
    (ran (exec .rdrx { lingering with arg0 := 2 })).map (fun t => (t.result, t.code)) =
      some (0x63, .ok) ∧
    (ran (exec .rdrx { lingering with arg0 := 2, connState := .listen })).map
      (fun t => t.result) = some 0x63 := by decide

/-- Q17. -/
theorem test_rdrx_refused :
    (ran (exec .rdrx { configured with result := 7 })).map (fun t => (t.result, t.code)) =
      some (0, .errRange) := by decide

/-- P1's line 5 and S1. -/
theorem test_send_saw :
    (ran (exec .sendSaw { loaded with arg0 := 8 })).map
      (fun t => (statusWord t, t.nxt, t.sndBuf, t.tmr)) =
      some (0x0000C990, 3, [(0, ⟨3, dg0⟩)], 10) ∧
    (ran (exec .sendSaw { established with arg0 := 0 })).map
      (fun t => (statusWord t, t.out.tx.map (fun r => r.bytes))) =
      some (0x0000C9B0, [[0, 0, 0, 0, 0, 0, 0, 1, 0x20, 0, 0, 4]]) := by decide

/-- R190's example, scaled: the burst goes out in order and stops at the window. -/
theorem test_send_gbn :
    (ran (exec .sendGbn { loaded with arg0 := 8, cfgWin := 2 })).map
      (fun t => (t.nxt, t.out.tx.map (fun r => r.bytes.drop 12))) =
      some (6, [[0x61, 0x62, 0x63], [0x64, 0x65, 0x66]]) := by decide

/-- P3: SEND.SR 8 bursts DATA 0, 3 and 6. -/
theorem test_send_sr :
    (ran (exec .sendSr { loaded with arg0 := 8 })).map
      (fun t => (statusWord t, t.nxt, t.sndBuf)) =
      some (0x0000CB90, 8, [(0, ⟨3, dg0⟩), (3, ⟨3, dg3⟩), (6, ⟨2, dg6⟩)]) := by decide

/-- Q14. -/
theorem test_send_out_of_range :
    (ran (exec .sendGbn { established with arg0 := 65537 })).map statusWord =
      some 0x00004886 := by decide

/-- R230's example, for each protocol. -/
theorem test_recv :
    (ran (exec .recvSaw established)).map statusWord = some 0x00004C90 ∧
    (ran (exec .recvGbn established)).map statusWord = some 0x00004D90 ∧
    (ran (exec .recvSr established)).map statusWord = some 0x00004E90 := by decide

/-- Q5 and Q6: PROTO before STATE, BUSY before PROTO. -/
theorem test_proto_order :
    (ran (cmdEvent 0x00000305 configured)).map (fun t => t.code) = some .errProto ∧
    (ran (cmdEvent 0x00000305 listening)).map (fun t => t.code) = some .errBusy := by decide

/-! ## Packets -/

/-- M1, M2. -/
theorem test_syn_in_listen :
    (ran (exec (.pktSyn (pkt 0xFFFFFFFF 0 [])) { listening with rxSrc := 0xA })).map
      (fun t => (t.connState, t.peerAddr, t.hsNxt, t.tmr, t.out.tx)) =
      some (.synReceived, 0xA, 0, 50,
        [⟨[0, 0, 0, 0, 0, 0, 0, 0, 0xC0, 0, 0, 4], 0xA, .hs⟩]) := by decide

/-- M7. -/
theorem test_syn_in_synReceived :
    (ran (exec (.pktSyn (pkt 0 0 [])) synReceived)).map
      (fun t => (t.connState, t.tmr, t.out.tx)) = some (.synReceived, 50, []) := by decide

/-- M9. -/
theorem test_synack_in_synSent :
    (ran (exec (.pktSynack (pkt 0 1 [])) synSent)).map
      (fun t => (statusWord t, t.hsNxt, t.out)) =
      some (0x00004880, 1,
        ⟨[⟨[0, 0, 0, 0, 0, 0, 0, 1, 0x40, 0, 0, 4], 0xA, .hs⟩], [.done .ok], false, none⟩) := by
  decide

/-- M5, M6: any packet of class ACK, a data packet among them. -/
theorem test_ack_in_synReceived :
    (ran (exec (.pktAck (pkt 0 0 [1, 2])) synReceived)).map
      (fun t => (statusWord t, t.rxBuf)) = some (0x00004880, []) := by decide

/-- X8: P3's line 9, the merge; the ACK is for the packet itself. -/
theorem test_ack_data_in_order_merges :
    (ran (exec (.pktAck (pkt 3 1 [0x64, 0x65, 0x66])) receivingSr)).map
      (fun t => (t.exp, t.rxBuf.map (fun e => e.1), flatten t.rxBuf, t.ooo.length)) =
      some (8, [0, 3, 6], [0x61, 0x62, 0x63, 0x64, 0x65, 0x66, 0x67, 0x68], 0) ∧
    (ran (exec (.pktAck (pkt 3 1 [0x64, 0x65, 0x66])) receivingSr)).map
      (fun t => t.out.tx.map (fun r => r.bytes)) =
      some [[0, 0, 0, 0, 0, 0, 0, 6, 0x40, 0, 0, 3]] := by decide

/-- X17: no flags but a payload is data. -/
theorem test_none_data :
    (ran (exec (.pktNone (pkt 3 0 [0x64])) (receiving .recvGbn))).map
      (fun t => (t.exp, t.out.tx.map (fun r => r.bytes))) =
      some (4, [[0, 0, 0, 0, 0, 0, 0, 4, 0x40, 0, 0, 3]]) := by decide

/-- X9: a stale entry of OOO is deleted. -/
theorem test_none_drops_stale :
    (ran (exec (.pktNone (pkt 0 0 [1, 2, 3]))
      { receiving .recvSr with exp := 0, rxBuf := [], ooo := [(2, [8, 9])] })).map
      (fun t => (t.exp, t.ooo)) = some (3, []) := by decide

/-- X14: the FIN after a refused store. -/
theorem test_fin_in_recv :
    (ran (exec (.pktFin (pkt 7 0 [])) { receiving .recvSaw with rxOvf := true })).map
      (fun t => (statusWord t, t.deliv, t.delivLen, t.out)) =
      some (0x0000780B, [(0, 0x61), (1, 0x62), (2, 0x63)], 3,
        ⟨[⟨[0, 0, 0, 0, 0, 0, 0, 7, 0x60, 0, 0, 3], 0xA, .data⟩], [.done .rxOverflow], true,
          none⟩) := by decide

/-- M17. -/
theorem test_fin_in_linger :
    (ran (exec (.pktFin (pkt 7 0 [])) lingering)).map
      (fun t => (statusWord t, t.out.tx.map (fun r => r.bytes))) =
      some (0x00005800, [[0, 0, 0, 0, 0, 0, 0, 7, 0x60, 0, 0, 3]]) := by decide

/-- M13: any ack_num. -/
theorem test_finack_in_closing :
    (ran (exec (.pktFinack (pkt 0 123 [])) closing)).map
      (fun t => (statusWord t, t.txLen, t.out.xferReset)) = some (0x00004000, 0, true) := by decide

/-- R94(c) in SEND.SR and in LISTEN. -/
theorem test_invalid_classes :
    ran (exec (.pktInvalidSynfin (pkt 0 0 [])) (sending .sendSr)) = some (sending .sendSr) ∧
    (ran (exec (.pktInvalidSynackfin (pkt 0 0 [])) listening)).map (fun t => t.tmr) =
      some 50 := by decide

/-- S2, S4 scaled: SAW matches `k + len` exactly. -/
theorem test_saw_ack :
    (ran (exec (.pktAck (pkt 0 3 [])) sendingSaw)).map
      (fun t => (t.sndBuf.map (fun e => e.1), t.nxt, t.tmr)) = some ([3], 6, 10) ∧
    (ran (exec (.pktAck (pkt 0 6 [])) sendingSaw)).map
      (fun t => (t.sndBuf.map (fun e => e.1), t.nxt, t.tmr)) = some ([0], 3, 10) := by decide

/-- G2, G3 scaled: GBN slides by one on the oldest entry's ACK and ignores a larger one. -/
theorem test_gbn_ack :
    (ran (exec (.pktAck (pkt 0 2 [])) (sendingPart .sendGbn))).map
      (fun t => (t.sndBuf.map (fun e => e.1), t.nxt, t.out.tx.length)) = some ([2, 4, 6], 8, 1) ∧
    (ran (exec (.pktAck (pkt 0 4 [])) (sendingPart .sendGbn))).map
      (fun t => (t.sndBuf.map (fun e => e.1), t.nxt, t.out.tx.length)) =
      some ([0, 2, 4], 6, 0) := by decide

/-- R1, R2, R3 scaled: P3's X on ACK 8 (not the head), ACK 3 (the head), ACK 5 (a miss). -/
theorem test_sr_ack :
    (ran (exec (.pktAck (pkt 0 8 [])) (sending .sendSr))).map
      (fun t => (t.sndBuf.map (fun e => e.1), t.tmr)) = some ([0, 3], 7) ∧
    (ran (exec (.pktAck (pkt 0 3 [])) (sending .sendSr))).map
      (fun t => (t.sndBuf.map (fun e => e.1), t.tmr)) = some ([3, 6], 10) ∧
    ran (exec (.pktAck (pkt 0 5 [])) (sending .sendSr)) = some (sending .sendSr) := by decide

/-! ## Events -/

/-- G4, W8: the expiry under GBN resends every stored datagram, in order. -/
theorem test_expiry_gbn :
    (ran (step { sending .sendGbn with tmr := 1, inputs := [.tick] })).map
      (fun t => (t.tmr, t.tmrArmed, t.out.tx.map (fun r => r.bytes), t.out.hooks)) =
      some (10, true, [dg0, dg3, dg6],
        [.timeout .established .sendGbn, .retx 0, .retx 3, .retx 6]) := by decide

/-- M12: the expiry in SYN_SENT. -/
theorem test_expiry_synSent :
    (ran (step { synSent with tmr := 1, inputs := [.tick] })).map
      (fun t => (statusWord t, t.out.tx)) = some (0x0000480A, []) := by decide

/-- M11: a five-byte datagram in SYN_SENT. -/
theorem test_framing_error :
    (ran (step { synSent with inputs := [.rx [1, 2, 3, 4, 5] 0xC] })).map
      (fun t => (t.connState, t.tmr, t.out.hooks)) =
      some (.synSent, 50, [.framing 5]) := by decide

/-- Z1: RESET, seen through every readable register. -/
theorem test_reset :
    (ran (step { lingering with inputs := [.reset] })).map
      (fun t => ([0x00, 0x04, 0x08, 0x0C, 0x10, 0x14, 0x18, 0x1C, 0x20, 0x24, 0x28, 0x2C, 0x30, 0x34,
        0x38, 0x3C, 0x40, 0x44, 0x48, 0x4C, 0x50, 0x54].map (fun a => regRead a t)).all (· == 0)) =
      some true := by decide

/-- The host's words run as the first event after reset, and a placed datagram does too. -/
theorem test_withFetchWord :
    (ran (step (State.reset.withFetchWord 32 0x00000007))).map (fun t => t.out.xferReset) =
      some true ∧
    (ran (step (State.reset.withFetchWord 16 0x2000))).map (fun t => t.out.tx.length) =
      some 1 := by decide

/-- R28: CFG0 and CFG1, read back. -/
theorem test_host_read :
    regRead 0x20 configured = 0x000403E8 ∧
    regRead 0x2C { configured with cfgVerbose := true, cfgLossMax := 5 } = 0x80000005 ∧
    regRead 0x40 (sending .sendSr) = 3 ∧ regRead 0x21 configured = 0 ∧
    regRead 0x58 configured = 0 := by decide

/-- CFG_LOSS_P read as round(1/p) itself, and draws 1, 2, 1, 1. -/
def lossy : LossSource := { range := BitVec.toNat, raw := fun n => [0, 1, 2, 3].getD n 0 }

/-- R274, with round(1/p) = 2 and CFG_LOSS_MAX = 2: DATA drops on draw 1 while the budget lasts, and
no handshake datagram does. -/
theorem test_injector :
    (Injector.passAll lossy 2 2#31
      [⟨[1], 0, .hs⟩, ⟨[2], 0, .data⟩, ⟨[3], 0, .data⟩, ⟨[4], 0, .data⟩, ⟨[5], 0, .data⟩]
      Injector.start) =
      ([⟨[1], 0, .hs⟩, ⟨[3], 0, .data⟩, ⟨[5], 0, .data⟩], ⟨some 0, 3⟩) := by decide

/-- R85's table: the writes of CONFIGURE and SEND.SR, with any answers on the side ports. -/
theorem test_assembler (x : EnvAnswer) :
    (HostLine.configure 1000 4 50 0 7 true).assemble x =
      [.write 0x04 0x000403E8 x, .write 0x08 50 x, .write 0x0C 0 x, .write 0x10 0x80000007 x,
        .write 0x00 0x00000001 x] ∧
    (HostLine.send .sr 9).assemble x = [.write 0x04 9 x, .write 0x00 0x00000205 x] := ⟨rfl, rfl⟩

/-- R86: LOADTX and READRX in their expansions, and READRX of DELIV_LEN bytes. -/
theorem test_pseudo_instructions (x : EnvAnswer) :
    (HostLine.loadtx 0 [0x61, 0x62]).assemble x =
      (HostLine.wrtx 0 0x61).assemble x ++ (HostLine.wrtx 1 0x62).assemble x ∧
    (HostLine.readrx 5 1).assemble x = (HostLine.rdrx 5).assemble x ++ [.read 0x18] ∧
    (HostStep.readAll x).after (some 2) =
      some ((HostLine.rdrx 0).assemble x ++ .read 0x18 ::
        ((HostLine.rdrx 1).assemble x ++ [.read 0x18])) := ⟨rfl, rfl, rfl⟩

/-- A link at its start whose right end is LISTENing and whose left host WAITs at once. -/
def waiting : Link :=
  { Link.start Params.suggested Params.suggested [.wait, .read 0x18] [.wait] with
    right := { Endpoint.start Params.suggested 1 [.wait] with rte := listening } }

/-- R302: a poll of STATUS goes on where BUSY = 0, and again where BUSY = 1. -/
theorem test_link_polls :
    ((waiting.advance (fun _ => lossy) (.host .left)).left.host,
      (waiting.advance (fun _ => lossy) (.host .right)).right.host) =
      ([.read 0x18], [.wait]) := by decide

/-- A left end at rest whose host has one command left: LISTEN, refused for want of a socket, or
CLOSE. -/
def lastCommand (i : HostLine) : Link :=
  Link.start Params.suggested Params.suggested (i.assemble State.reset.answer) []

/-- R311: the run is over once its last command has been accepted and BUSY = 0. -/
theorem test_run_over :
    [lastCommand .close, (lastCommand .close).advance (fun _ => lossy) (.host .left),
      (lastCommand .listen).advance (fun _ => lossy) (.host .left)].map
      (fun l => l.left.runOver) = [false, true, false] ∧
    ({ lastCommand .close with
      right := { Endpoint.start Params.suggested 1 [] with rte := listening } } : Link).transferOver =
      false := by decide

/-- R311: the TX record of a run keeps a datagram that the injector drops. -/
theorem test_tx_record :
    let l : Link := { lastCommand .close with
      left := { Endpoint.start Params.suggested 0 [] with
        rte := { sendingSaw with tmr := 1, cfgLossP := 1, cfgLossMax := 5 } } }
    ((l.advance (fun _ => lossy) (.tick .left)).left.result.sent.map (fun r => r.bytes),
      (l.advance (fun _ => lossy) (.tick .left)).flights) = ([dg0], []) := by decide

/-! ## Witnesses: states and operands that meet the hypotheses of each obligation -/

/-- Twelve header bytes with the given flags word. -/
def hdr (fw : Half) : List Byte := tableDatagram fw.toNat

theorem witness_DeframeFrameRoundTrip :
    [(1 : Byte), 2, 3].length ≤ tiny.mpsMax ∧
    (12 ≤ (hdr 0).length ∧ (hdr 0).length ≤ tiny.dgramMax) ∧
    (12 ≤ (hdr 0 ++ [1, 2, 3]).length ∧ (hdr 0 ++ [1, 2, 3]).length ≤ tiny.dgramMax) := by decide

theorem witness_EncodeThenDecodeGivesInstruction :
    WellFormed tiny (.pktAck (pkt 0 0 [1, 2, 3])) ∧ WellFormed tiny (.pktNone (pkt 0 0 [])) ∧
    WellFormed tiny .close := by decide

theorem witness_DecodedObjectIsItsEncoding :
    decode tiny (.cmd 0x00000209) = .error (.cmd (.protoNotTaken 9)) ∧
    decode tiny (.cmd 0x00000206) = .ok .recvSr ∧
    decode tiny (.wire (hdr 0xE000)) = .ok (.pktInvalidSynackfin (pkt 0 0 [])) := by
  refine ⟨?_, ?_, ?_⟩ <;> rfl

theorem witness_DeframeReadsBigEndianFields :
    (hdr 0).tail.length < 12 ∧ tiny.dgramMax < (hdr 0 ++ [1, 2, 3, 4]).length ∧
    12 + ([] : List Byte).length ≤ tiny.dgramMax ∧
    12 + [(1 : Byte), 2, 3].length ≤ tiny.dgramMax := by decide

/-- Every row of the wire table has a datagram, here with RST and all unused bits set. -/
theorem witness_WireRowFollowsFlagMask :
    (∀ x ∈ [(0x9FFF, (0x8000 : Half)), (0xDFFF, 0xC000), (0x5FFF, 0x4000), (0x1FFF, 0x0000),
        (0x3FFF, 0x2000), (0x7FFF, 0x6000), (0xBFFF, 0xA000), (0xFFFF, 0xE000)],
      12 ≤ (tableDatagram x.1).length ∧ (tableDatagram x.1).length ≤ tiny.dgramMax ∧
      (byteAt (tableDatagram x.1) 8 ++ byteAt (tableDatagram x.1) 9 : Half) &&& 0xE000 = x.2) := by
  decide

theorem witness_StepRunsDecodedInstruction :
    ({ bound with inputs := [.hostWrite 0 0x00000003 ⟨.ok, .resource⟩] } : State).inputs =
      .hostWrite 0 0x00000003 ⟨.ok, .resource⟩ :: [] ∧
    decodeCmd 0x00000003 = .ok .listen ∧
    ({ listening with inputs := [.rx (hdr 0x8000) 0xA] } : State).inputs =
      .rx (hdr 0x8000) 0xA :: [] ∧
    rxReady { listening with inputs := [.rx (hdr 0x8000) 0xA] } = true ∧
    isDatagram (hdr 0x8000) = true ∧
    decodeWire listening.params (hdr 0x8000) = .ok (.pktSyn (pkt 0 0 [])) := by
  refine ⟨?_, ?_, ?_, ?_, ?_, ?_⟩ <;> rfl

theorem witness_StepsWithoutEffect :
    State.reset.inputs = [] ∧
    ({ established with inputs := [.rx [] 0] } : State).inputs = .rx [] 0 :: [] ∧
    ({ established with inputs := [.hostRead 0x14] } : State).inputs = .hostRead 0x14 :: [] ∧
    ({ established with inputs := [.tick] } : State).tmrArmed = false := by
  refine ⟨?_, ?_, ?_, ?_⟩ <;> rfl

/-- R153, R154: the three cases in which a datagram is passed over. -/
theorem witness_StepsWithoutEffect_notReady :
    State.reset.sockOpen = false ∧
    (established.sockOpen = true ∧ established.connState = .established ∧
      established.xfer = .idle) ∧
    (bound.sockOpen = true ∧ bound.connState = .closed ∧ bound.linger = false) := by decide

/-- R110's bound: 65535 bytes are a datagram, 65536 are not and are passed over. -/
theorem test_datagram_bound (b : Byte) :
    isDatagram (List.replicate 65535 b) = true ∧ isDatagram (List.replicate 65536 b) = false ∧
    65535 < (List.replicate 65536 b).length := by
  simp only [isDatagram, List.length_replicate]
  decide

/-- Lengths 11 and 1473 (DGRAM_MAX + 1) in every waiting state, and in those R144 does not list. -/
theorem witness_MalformedDatagramIsDropped :
    (∀ s ∈ [listening, synSent, synReceived, closing, sending .sendSaw, sending .sendGbn,
        lingering, sending .sendSr, receiving .recvSaw, receiving .recvGbn, receiving .recvSr],
      rxReady s = true ∧ s.params.dgramMax < 1473 ∧ 1473 ≤ 65535) ∧
    (∀ s ∈ [listening, synSent, synReceived, closing],
      s.connState ∈ [ConnState.listen, .synSent, .synReceived, .closing]) ∧
    (List.replicate 11 (0 : Byte)).length < 12 := by decide

theorem witness_WordsThatAreNoCommand :
    ((0x00000000 : Word).extractLsb' 0 8 : Byte) = 0x00 ∧
    0x09 < ((0x0000000A : Word).extractLsb' 0 8 : Byte) ∧
    ((0x80000001 : Word).extractLsb' 10 22 : BitVec 22) ≠ 0 ∧
    (((0x00000107 : Word).extractLsb' 8 2 : BitVec 2) ≠ 0 ∧
      ((0x00000107 : Word).extractLsb' 0 8 : Byte) ≠ 0x05 ∧
      ((0x00000107 : Word).extractLsb' 0 8 : Byte) ≠ 0x06 ∧
      ((0x00000107 : Word).extractLsb' 0 8 : Byte) ≠ 0x09) ∧
    (((0x00000309 : Word).extractLsb' 8 2 : BitVec 2) ≠ 0 ∧
      ((0x00000309 : Word).extractLsb' 0 8 : Byte) = 0x09) ∧
    busy listening = true ∧ busy established = false := by decide

theorem witness_HostRegisterMap :
    (∀ n ∈ [0x00, 0x04, 0x54, 0x58, 0x55, 0xFFFFFFFC],
      ({ loaded with inputs := [.hostRead (BitVec.ofNat 32 n)] } : State).inputs =
        .hostRead (BitVec.ofNat 32 n) :: []) ∧
    loaded.peerAddr.toNat < 2 ^ loaded.params.addrW ∧
    loaded.localAddr.toNat < 2 ^ loaded.params.addrW ∧
    (0x54 : Word) < 0x58 ∧ (0x55 : Word).extractLsb' 0 2 ≠ (0 : BitVec 2) := by
  decide

/-- Aligned, misaligned and unmapped addresses (4, 16, 20, 1, 0xFFFFFFFC). -/
theorem witness_HostBusAccessRules :
    (∀ n ∈ [0x04, 0x08, 0x0C, 0x10, 0x14, 0x01, 0xFFFFFFFC],
      ({ bound with inputs := [.hostWrite (BitVec.ofNat 32 n) 7 bound.answer] } : State).inputs =
        .hostWrite (BitVec.ofNat 32 n) 7 bound.answer :: []) ∧
    (0x01 : Word) ∉ [(0x00 : Word), 0x04, 0x08, 0x0C, 0x10] ∧
    (0x01 : Word).toNat % 4 ≠ 0 ∧ 16 < (0x14 : Word).toNat ∧ (0x10 : Word).toNat = 16 := by
  decide

/-- The largest legal operands, and each illegal one next to its bound. -/
theorem witness_ConfigureWritesOrRefuses :
    busy listening = true ∧ busy established = false ∧
    (∀ n ∈ [0x004005B4, 0x00010001],
      1 ≤ n % 2 ^ 16 ∧ n % 2 ^ 16 ≤ established.params.mpsMax ∧
      1 ≤ n / 2 ^ 16 ∧ n / 2 ^ 16 ≤ established.params.wMax) ∧
    (1 : Word) ≠ 0 ∧
    (0x00010000 : Word).toNat % 2 ^ 16 = 0 ∧
    established.params.mpsMax < (0x000105B5 : Word).toNat % 2 ^ 16 ∧
    (0x00000001 : Word).toNat / 2 ^ 16 = 0 ∧
    established.params.wMax < (0x00410001 : Word).toNat / 2 ^ 16 := by
  decide

/-- The largest address of 48 bits. -/
def topAddr (s : State) : State := { s with arg0 := 0xFFFFFFFF, arg1 := 0x0000FFFF }

theorem witness_BindTakesTheEnvironmentsAnswer :
    ∀ a ∈ [BindAnswer.ok, .invalid, .inUse, .resource],
      busy { topAddr configured with answer := ⟨a, .resource⟩ } = false ∧
      ({ topAddr configured with answer := ⟨a, .resource⟩ } : State).sockOpen = false ∧
      addrOperand { topAddr configured with answer := ⟨a, .resource⟩ } <
        2 ^ configured.params.addrW ∧
      configured.params.addrW ≤ 64 := by decide

theorem witness_BindTakesTheEnvironmentsAnswer_open :
    busy bound = false ∧ bound.sockOpen = true := by decide

theorem witness_ListenStartsWaiting :
    ∀ s ∈ [bound, lingering], busy s = false ∧ s.sockOpen = true ∧ s.connState = .closed ∧
      s.cfgValid = true := by decide

theorem witness_ConnectSendsSyn :
    ∀ s ∈ [topAddr bound, topAddr configured,
        { topAddr configured with answer := ⟨.ok, .resource⟩ }],
      busy s = false ∧ s.connState = .closed ∧ s.cfgValid = true ∧
      addrOperand s < 2 ^ s.params.addrW ∧ s.params.addrW ≤ 64 := by decide

theorem witness_ConnectSendsSyn_sockets :
    (topAddr bound).sockOpen = true ∧ (topAddr configured).sockOpen = false ∧
    (topAddr configured).answer.openSocket = .ok 0 ∧
    ((0 : Addr).toNat < 2 ^ configured.params.addrW ∧
      (0xFFFFFFFFFFFF : Addr).toNat < 2 ^ configured.params.addrW) ∧
    ({ topAddr configured with answer := ⟨.ok, .resource⟩ } : State).answer.openSocket =
      .resource := by decide

theorem witness_WrtxWritesOneByte :
    ∀ n ∈ [0, 65535],
      busy { established with arg0 := BitVec.ofNat 32 n } = false ∧
      (BitVec.ofNat 32 n).toNat < established.params.txCap := by
  decide

/-- Its two refusals, the address bound among them. -/
theorem witness_WrtxWritesOneByte_refused :
    busy listening = true ∧ busy { established with arg0 := 65536 } = false ∧
    established.params.txCap ≤ (65536 : Word).toNat := by decide

theorem witness_RdrxReadsDeliveredByte :
    (2 : Word).toNat < lingering.delivLen.toNat ∧ lingering.delivLen.toNat ≤ (3 : Word).toNat := by
  decide

theorem witness_RefusedCommandWritesCodeOnly :
    (∀ s ∈ [listening, sending .sendSr, receiving .recvSaw, closing], busy s = true) ∧
    (∀ s ∈ [State.reset, configured, bound, established, lingering], busy s = false) ∧
    (bound.sockOpen = true ∧ configured.sockOpen = false ∧ established.connState ≠ .closed ∧
      configured.connState ≠ .established) ∧
    (State.reset.cfgValid = false ∧ State.reset.connState = .closed) ∧
    ({ State.reset with sockOpen := true } : State).connState = .closed ∧
    2 ^ configured.params.addrW ≤ addrOperand { configured with arg1 := 0x00010000 } ∧
    established.params.txCap < (65537 : Word).toNat ∧
    established.params.txCap ≤ (65536 : Word).toNat := by decide

/-- ESTABLISHED without a configuration: no run reaches it, the statement covers it. -/
theorem witness_RefusedCommandWritesCodeOnly_unconfigured :
    busy { established with cfgValid := false } = false ∧
    ({ established with cfgValid := false } : State).connState = .established := by decide

theorem witness_handshake_states :
    (listening.sockOpen = true ∧ listening.connState = .listen) ∧
    (synReceived.sockOpen = true ∧ synReceived.connState = .synReceived) ∧
    (synSent.sockOpen = true ∧ synSent.connState = .synSent) ∧
    (closing.sockOpen = true ∧ closing.connState = .closing) ∧
    (lingering.sockOpen = true ∧ lingering.connState = .closed ∧ lingering.linger = true) := by
  decide

theorem witness_InvalidClassesAreIgnored :
    (∀ s ∈ [listening, synSent, synReceived, closing, sending .sendSaw, sending .sendGbn,
        sending .sendSr, receiving .recvSaw, receiving .recvGbn, receiving .recvSr, lingering],
      rxReady s = true) ∧ (pkt 0 0 []).payload = [] := by decide

theorem witness_LingerAndReceiverIgnoreStrays :
    ∀ x ∈ [Xfer.recvSaw, .recvGbn, .recvSr],
      (receiving x).sockOpen = true ∧ (receiving x).connState = .established ∧
      (receiving x).xfer = x := by decide

theorem witness_ZeroLengthSendGoesToClosing :
    busy established = false ∧ established.connState = .established ∧
    established.cfgValid = true ∧ established.arg0 = 0 := by decide

/-- One byte, and TX_CAP bytes. -/
theorem witness_SawSendsFirstChunk :
    ∀ n ∈ [1, 65536],
      busy { loaded with arg0 := BitVec.ofNat 32 n } = false ∧ loaded.connState = .established ∧
      loaded.cfgValid = true ∧ BitVec.ofNat 32 n ≠ 0 ∧
      (BitVec.ofNat 32 n).toNat ≤ loaded.params.txCap := by
  decide

theorem witness_SendBurstFillsWindow :
    ∀ n ∈ [1, 8, 65536],
      busy { loaded with arg0 := BitVec.ofNat 32 n } = false ∧ loaded.connState = .established ∧
      loaded.cfgValid = true ∧ BitVec.ofNat 32 n ≠ 0 ∧
      (BitVec.ofNat 32 n).toNat ≤ loaded.params.txCap ∧
      1 ≤ loaded.cfgMps.toNat := by
  decide

theorem witness_SawMatchingAckAdvances :
    (sendingSaw.sockOpen = true ∧ sendingSaw.connState = .established ∧
      sendingSaw.xfer = .sendSaw ∧ sendingSaw.sndBuf = [(0, ⟨3, dg0⟩)] ∧
      (pkt 0 3 []).ack.toNat = 0 + (3 : Half).toNat ∧ sendingSaw.nxt < sendingSaw.txLen) ∧
    ((sendingLast .sendSaw).sockOpen = true ∧ (sendingLast .sendSaw).connState = .established ∧
      (sendingLast .sendSaw).sndBuf = [(6, ⟨2, dg6⟩)] ∧
      (pkt 0 8 []).ack.toNat = 6 + (2 : Half).toNat ∧
      ¬ (sendingLast .sendSaw).nxt < (sendingLast .sendSaw).txLen) := by
  and_intros <;> decide

/-- The three clauses: bytes unsent, all sent with entries left, all sent and the last entry. -/
theorem witness_GbnMatchingAckAdvances :
    (∀ s ∈ [sendingPart .sendGbn, sending .sendGbn, sendingLast .sendGbn],
      s.sockOpen = true ∧ s.connState = .established ∧ s.xfer = .sendGbn ∧
      s.nxt.toNat ≤ s.txLen.toNat ∧ (∀ c ∈ s.sndBuf.tail, c.1 < s.nxt.toNat) ∧
      1 ≤ s.cfgMps.toNat ∧ (s.sndBuf.tail.length + 1 = s.cfgWin.toNat ∨ s.nxt = s.txLen)) ∧
    (sendingPart .sendGbn).nxt ≠ (sendingPart .sendGbn).txLen ∧
    ((sending .sendGbn).nxt = (sending .sendGbn).txLen ∧ (sending .sendGbn).sndBuf.tail ≠ []) ∧
    ((sendingLast .sendGbn).nxt = (sendingLast .sendGbn).txLen ∧
      (sendingLast .sendGbn).sndBuf.tail = []) := by
  and_intros <;> decide

theorem witness_SawAndGbnIgnoreOtherPackets :
    (∀ s ∈ [sending .sendSaw, sending .sendGbn], s.sockOpen = true ∧
      s.connState = .established ∧ (s.xfer = .sendSaw ∨ s.xfer = .sendGbn)) ∧
    (∀ k e rest, (sending .sendGbn).sndBuf = (k, e) :: rest →
      (pkt 0 6 []).ack.toNat ≠ k + e.len.toNat) := by
  refine ⟨by decide, ?_⟩
  intro k e rest h
  simp only [sending, List.cons.injEq, Prod.mk.injEq] at h
  obtain ⟨⟨rfl, rfl⟩, -⟩ := h
  decide

/-- R205's example, and 95_test_vectors.md: TX_LEN a multiple of CFG_MPS and not. -/
theorem witness_SrAckedOffset :
    1 ≤ (sending .sendSr).cfgMps.toNat ∧ (sending .sendSr).txLen ≠ 0 ∧
    srAcked (sending .sendSr) 8 = some 6 ∧ srAcked (sending .sendSr) 6 = some 3 ∧
    srAcked (sending .sendSr) 2 = none ∧
    (¬ ((2 : Word) = (sending .sendSr).txLen) ∧ (2 : Word).toNat < 3) ∧
    ((sendingPart .sendSr).txLen.toNat % (sendingPart .sendSr).cfgMps.toNat = 0 ∧
      srAcked (sendingPart .sendSr) 8 = some 6) := by decide

/-- The five clauses. -/
theorem witness_SrHitRemovesItsEntry :
    (∀ s ∈ [sendingPart .sendSr, sending .sendSr, sendingLast .sendSr],
      s.sockOpen = true ∧ s.connState = .established ∧ s.xfer = .sendSr ∧
      OffsetMap.wf s.sndBuf ∧ s.nxt.toNat ≤ s.txLen.toNat ∧
      (∀ c ∈ s.sndBuf, c.1 < s.nxt.toNat) ∧ 1 ≤ s.cfgMps.toNat ∧
      (s.sndBuf.length = s.cfgWin.toNat ∨ s.nxt = s.txLen)) ∧
    (srAcked (sendingPart .sendSr) 2 = some 0 ∧ hasKey 0 (sendingPart .sendSr).sndBuf = true ∧
      (sendingPart .sendSr).nxt ≠ (sendingPart .sendSr).txLen) ∧
    (srAcked (sendingPart .sendSr) 4 = some 2 ∧
      hasKey 2 (sendingPart .sendSr).sndBuf = true) ∧
    (srAcked (sending .sendSr) 3 = some 0 ∧ hasKey 0 (sending .sendSr).sndBuf = true ∧
      (sending .sendSr).sndBuf.filter (fun c => c.1 != 0) ≠ []) ∧
    (srAcked (sending .sendSr) 6 = some 3 ∧ hasKey 3 (sending .sendSr).sndBuf = true) ∧
    (srAcked (sendingLast .sendSr) 8 = some 6 ∧ hasKey 6 (sendingLast .sendSr).sndBuf = true ∧
      (sendingLast .sendSr).sndBuf.filter (fun c => c.1 != 6) = []) := by
  and_intros <;> decide

/-- The premises on SNDBUF's shape, for the first entry of each of the three states. -/
theorem witness_SrHitRemovesItsEntry_shape :
    ∀ s ∈ [sendingPart .sendSr, sending .sendSr, sendingLast .sendSr],
      ∃ h eh tl, s.sndBuf = (h, eh) :: tl := by
  intro s hs
  simp only [List.mem_cons, List.not_mem_nil, or_false] at hs
  rcases hs with rfl | rfl | rfl <;> exact ⟨_, _, _, rfl⟩

theorem witness_SrMissHasNoEffect :
    ((sending .sendSr).sockOpen = true ∧ (sending .sendSr).connState = .established ∧
      (sending .sendSr).xfer = .sendSr) ∧
    srAcked (sending .sendSr) 2 = none ∧
    (srAcked (sending .sendSr) 5 = some 2 ∧ hasKey 2 (sending .sendSr).sndBuf = false) := by decide

theorem witness_RecvStartsReceiver :
    busy established = false ∧ established.connState = .established ∧
    established.cfgValid = true := by decide

/-- RX_CAP = 6 beside three bytes held: three more fit exactly, four do not. -/
def tight (x : Xfer) : State :=
  { receiving x with params := { Params.suggested with rxCap := 6 } }

theorem witness_InOrderDataIsStoredAndAcknowledged :
    (∀ x ∈ [Xfer.recvSaw, .recvGbn, .recvSr],
      (tight x).sockOpen = true ∧ (tight x).connState = .established ∧ (tight x).xfer = x ∧
      (pkt 3 0 [1, 2, 3]).seq = (tight x).exp ∧
      rxBytes (tight x) + (pkt 3 0 [1, 2, 3]).payload.length ≤ (tight x).params.rxCap ∧
      (tight x).params.rxCap < rxBytes (tight x) + (pkt 3 0 [1, 2, 3, 4]).payload.length) ∧
    (tight .recvSr).params.oooPolicy = .buffer := by decide

theorem witness_MergeDrainsAdjoiningEntries :
    OffsetMap.wf receivingSr.ooo ∧ (∀ e ∈ receivingSr.ooo, e.2 ≠ []) ∧
    (∀ e ∈ receivingSr.rxBuf, e.1 < receivingSr.exp.toNat) ∧
    receivingSr.exp.toNat + mapBytes receivingSr.ooo < 2 ^ 32 ∧
    OffsetMap.wf receivingSr.rxBuf ∧ lookupKey 6 receivingSr.ooo = some [0x67, 0x68] ∧
    ({ receivingSr with exp := 6 } : State).exp.toNat = 6 ∧
    lookupKey receivingSr.exp.toNat receivingSr.ooo = none := by decide

/-- The clauses of R234 and R235: discarded; buffered already; buffered now; no slot; no room. -/
theorem witness_OutOfOrderData :
    (∀ x ∈ [Xfer.recvSaw, .recvGbn, .recvSr], (receiving x).sockOpen = true ∧
      (receiving x).connState = .established ∧ (receiving x).exp < (pkt 6 0 [1]).seq) ∧
    (pkt 6 0 [1]).payload ≠ [] ∧ receivingSr.params.oooPolicy = .buffer ∧
    hasKey 6 receivingSr.ooo = true ∧ hasKey 7 receivingSr.ooo = false ∧
    (receivingSr.ooo.length < receivingSr.params.oooSlots ∧
      rxBytes receivingSr + 1 ≤ receivingSr.params.rxCap) ∧
    (⟨65536, 65536, 1460, 64, 1, 48, .buffer⟩ : Params).oooSlots ≤ receivingSr.ooo.length ∧
    (⟨65536, 5, 1460, 64, 64, 48, .buffer⟩ : Params).rxCap < rxBytes receivingSr + 1 := by
  and_intros <;> decide

theorem witness_DuplicateDataIsAcknowledged :
    (pkt 0 0 [1]).seq < (tight .recvGbn).exp ∧ (pkt 2 0 [1]).seq < (tight .recvGbn).exp ∧
    hasKey 0 (tight .recvGbn).rxBuf = true ∧ hasKey 2 (tight .recvGbn).rxBuf = false ∧
    rxBytes (tight .recvGbn) + (pkt 2 0 [1, 2, 3]).payload.length ≤ 6 ∧
    6 < rxBytes (tight .recvGbn) + (pkt 2 0 [1, 2, 3, 4]).payload.length := by decide

theorem witness_TickCountsDown :
    (sending .sendSr).tmrArmed = true ∧ (sending .sendSr).tmr ≠ 1 ∧
    ({ listening with tmr := 2 } : State).tmr ≠ 1 := by decide

theorem witness_expiry :
    (∀ s ∈ [listening, synReceived, synSent, closing, sending .sendSaw, sending .sendSr,
        sending .sendGbn],
      ({ s with tmr := 1, inputs := [.tick] } : State).inputs = .tick :: [] ∧
      s.tmrArmed = true) ∧
    (sending .sendSr).sndBuf = (0, ⟨3, dg0⟩) :: [(3, ⟨3, dg3⟩), (6, ⟨2, dg6⟩)] := by decide

theorem witness_ResetClearsEverything :
    ({ sending .sendSr with inputs := [.reset, .tick] } : State).inputs = .reset :: [.tick] := rfl

/-! ### The invariants hold of running transfers -/

/-- A running sender that meets the whole invariant, its timer about to expire. -/
theorem witness_MachineInv_sender : MachineInv (sending .sendGbn) where
  params := by decide
  control := by constructor <;> decide
  form := by constructor <;> decide
  sender := by
    constructor
    case entries =>
      intro _ k e h
      simp only [sending, List.mem_cons, Prod.mk.injEq, List.not_mem_nil, or_false] at h
      rcases h with ⟨rfl, rfl⟩ | ⟨rfl, rfl⟩ | ⟨rfl, rfl⟩ <;>
        exact ⟨by decide, by decide, by decide, by rfl⟩
    case contiguous =>
      intro _ _ k e h o _ ho hm
      have ho' : o < 8 := ho
      have hm' : o % 3 = 0 := hm
      obtain rfl | rfl | rfl : o = 0 ∨ o = 3 ∨ o = 6 := by omega
      all_goals rfl
    all_goals decide
  receiver := by
    constructor
    case deliveredListed => intro a h; exact absurd h (Nat.not_lt_zero a)
    case buffered => intro k p h; exact absurd h List.not_mem_nil
    case stored => intro k p h; exact absurd h List.not_mem_nil
    all_goals decide

/-- A running receiver, with a packet buffered out of order, that meets the whole invariant. -/
theorem witness_MachineInv_receiver : MachineInv receivingSr where
  params := by decide
  control := by constructor <;> decide
  form := by constructor <;> decide
  sender := by
    constructor
    case entries => intro h; exact absurd h (by decide)
    case contiguous => intro h; exact absurd h (by decide)
    all_goals decide
  receiver := by
    constructor
    case deliveredListed => intro a h; exact absurd h (Nat.not_lt_zero a)
    case stored =>
      intro k p h
      simp only [receivingSr, receiving, List.mem_cons, Prod.mk.injEq, List.not_mem_nil,
        or_false] at h
      obtain ⟨rfl, rfl⟩ := h
      decide
    case buffered =>
      intro k p h
      simp only [receivingSr, List.mem_cons, Prod.mk.injEq, List.not_mem_nil, or_false] at h
      obtain ⟨rfl, rfl⟩ := h
      decide
    all_goals decide

/-- From both, an event leads to a next state. -/
theorem witness_step_next :
    (∃ t, step (sending .sendGbn) = .next t) ∧ (∃ t, step receivingSr = .next t) :=
  ⟨step_next _, step_next _⟩

/-- P3's stream: RXBUF holds its first three bytes, OOO its last two, and DATA 3 is a slice of
it. -/
theorem witness_ReceiverReassemblesTheStream :
    let d : List Byte := [0x61, 0x62, 0x63, 0x64, 0x65, 0x66, 0x67, 0x68]
    let p : Packet := pkt 3 1 [0x64, 0x65, 0x66]
    d.length < 2 ^ 32 ∧ Receiving receivingSr ∧ StreamInv d receivingSr ∧
    p.payload.length ≤ receivingSr.params.mpsMax ∧ p.payload ≠ [] ∧
    SliceOf d p.seq.toNat p.payload ∧ p.seq.toNat + p.payload.length ≤ d.length ∧
    (p.seq < receivingSr.exp → hasKey p.seq.toNat receivingSr.rxBuf = true) := by
  intro d p
  refine ⟨by decide, by decide, ?_, by decide, by decide, by decide, by decide, by decide⟩
  constructor
  · exact ⟨rfl, by decide, by decide, rfl⟩
  · decide
  · intro k q h
    simp only [receivingSr, List.mem_cons, Prod.mk.injEq, List.not_mem_nil, or_false] at h
    obtain ⟨rfl, rfl⟩ := h
    decide

/-- CODE changes on a command, on a completion and on a reset. -/
theorem witness_CodeIsWrittenOnlyWhereR26Says :
    (ran (step { State.reset with inputs := [.hostWrite 0 0x00000003 State.reset.answer] })).map
      (fun t => t.code) = some .errState ∧
    (ran (step { synSent with tmr := 1, inputs := [.tick] })).map (fun t => t.code) =
      some .connectFail ∧
    (ran (step { configured with code := .errState, inputs := [.reset] })).map
      (fun t => t.code) = some .ok := by decide

theorem witness_BusyLocksTxmemAndConfiguration :
    busy (sending .sendSr) = true ∧
    ({ sending .sendSr with inputs := [.hostWrite 0 0x00000008 State.reset.answer] } :
      State).inputs.head? ≠ some .reset := by decide

theorem witness_ParametersDelivAndResultFrames :
    ¬ (Receiving (sending .sendSr) ∧ (sending .sendSr).linger = true) ∧
    (sending .sendSr).inputs.head? ≠ some .reset ∧
    ((0x00000008 : Word).extractLsb' 0 8 : Byte) ≠ 0x09 := by decide

end Sys2Proof.Tests
end

section
/-! SUPPORT. The host bus in the layer of the machine's step: what a bus read and a bus write do to
the state, and the register map address by address (spec/10_state.md R28, spec/20_memory.md R64). -/

namespace Sys2Proof.Machine

/-! ## The step of a bus access -/

/-- A host read puts `regRead` on the bus and changes nothing else (R64). -/
theorem step_hostRead {s : State} {a : Word} {rest : List Event}
    (h : s.inputs = .hostRead a :: rest) :
    step s = .next { s with
      inputs := rest, out := { StepOutput.none with busData := some (regRead a s) } } := by
  unfold step; rw [h]; rfl

/-- A host write is `hostWriteEvent` on the state that has taken the event (R8). -/
theorem step_hostWrite {s : State} {a d : Word} {ans : EnvAnswer} {rest : List Event}
    (h : s.inputs = .hostWrite a d ans :: rest) :
    step s = hostWriteEvent a d ans (beginStep rest s) := by
  unfold step; rw [h]; rfl

/-! ## Writes -/

/-- The addresses a host write acts on: CMD, which is an event, and ARG0 to ARG3 (R28). -/
def writableAddrs : List Word := [0x00, 0x04, 0x08, 0x0C, 0x10]

/-- A write to any other address is ignored (R28). -/
theorem hostWriteEvent_of_not_writable {a : Word} (h : a ∉ writableAddrs) (d : Word)
    (ans : EnvAnswer) (s : State) : hostWriteEvent a d ans s = .next s := by
  simp only [writableAddrs, List.mem_cons, List.not_mem_nil, or_false, not_or] at h
  obtain ⟨hcmd, harg0, harg1, harg2, harg3⟩ := h
  rw [hostWriteEvent, if_neg hcmd, regWrite, if_neg harg0, if_neg harg1, if_neg harg2,
    if_neg harg3]

/-! ## Reads -/

/-- The addresses that hold a register the host can read (R28). -/
def readableAddrs : List Word :=
  [0x04, 0x08, 0x0C, 0x10, 0x14, 0x18, 0x1C, 0x20, 0x24, 0x28, 0x2C, 0x30, 0x34, 0x38, 0x3C, 0x40,
    0x44, 0x48, 0x4C, 0x50, 0x54]

/-- CMD reads as 0, and so does every address past LOCAL_HI or misaligned: none is readable. -/
theorem not_readable_of_cmd_or_past_or_misaligned {a : Word}
    (h : a = 0x00 ∨ 0x54 < a ∨ a.extractLsb' 0 2 ≠ (0 : BitVec 2)) : a ∉ readableAddrs := by
  have bounds : ∀ b ∈ readableAddrs,
      b ≠ 0x00 ∧ ¬ 0x54 < b ∧ b.extractLsb' 0 2 = (0 : BitVec 2) := by
    simp [readableAddrs]
  intro ha
  obtain ⟨hcmd, hpast, haligned⟩ := bounds a ha
  obtain h | h | h := h
  · exact hcmd h
  · exact hpast h
  · exact h haligned

/-- Every address without a readable register reads as 0 (R28). -/
theorem regRead_of_not_readable {a : Word} (h : a ∉ readableAddrs) (s : State) :
    regRead a s = 0 := by
  simp only [readableAddrs, List.mem_cons, List.not_mem_nil, or_false, not_or] at h
  simp only [regRead, h, if_false]

/-- An address tag of ADDR_W bits is its own tag: no bit is cut off (R32). -/
theorem tagOf_of_lt {P : Params} {a : Addr} (h : a.toNat < 2 ^ P.addrW) : tagOf P a = a := by
  rw [tagOf, Nat.mod_eq_of_lt h, BitVec.ofNat_toNat, BitVec.setWidth_eq]

/-- CFG0 (R28). -/
theorem regRead_cfg0 (s : State) :
    ((regRead 0x20 s).extractLsb' 0 16 : Half) = s.cfgMps ∧
      ((regRead 0x20 s).extractLsb' 16 16 : Half) = s.cfgWin := by
  change ((s.cfgWin ++ s.cfgMps).extractLsb' 0 16 : Half) = _ ∧
    ((s.cfgWin ++ s.cfgMps).extractLsb' 16 16 : Half) = _
  exact ⟨BitVec.extractLsb'_append_eq_right, BitVec.extractLsb'_append_eq_left⟩

/-- CFG1 (R28). -/
theorem regRead_cfg1 (s : State) :
    ((regRead 0x2C s).extractLsb' 0 31 : BitVec 31) = s.cfgLossMax ∧
      (regRead 0x2C s).getLsbD 31 = s.cfgVerbose := by
  change ((BitVec.ofBool s.cfgVerbose ++ s.cfgLossMax).extractLsb' 0 31 : BitVec 31) = _ ∧
    (BitVec.ofBool s.cfgVerbose ++ s.cfgLossMax).getLsbD 31 = _
  exact ⟨BitVec.extractLsb'_append_eq_right, by rw [BitVec.getLsbD_append]; simp⟩

/-- SNDCNT, whose upper half is 0 (R28). -/
theorem regRead_sndcnt (s : State) :
    (regRead 0x40 s).toNat = s.sndBuf.length % 2 ^ 16 := by
  change ((BitVec.ofNat 16 s.sndBuf.length).setWidth 32).toNat = _
  rw [BitVec.toNat_setWidth_of_le (by decide), BitVec.toNat_ofNat]

/-- PEER_LO, PEER_HI, LOCAL_LO and LOCAL_HI: a tag of ADDR_W bits is read whole (R28, R32). -/
theorem regRead_tags {s : State} (hpeer : s.peerAddr.toNat < 2 ^ s.params.addrW)
    (hlocal : s.localAddr.toNat < 2 ^ s.params.addrW) :
    regRead 0x48 s = s.peerAddr.extractLsb' 0 32 ∧
      regRead 0x4C s = s.peerAddr.extractLsb' 32 32 ∧
      regRead 0x50 s = s.localAddr.extractLsb' 0 32 ∧
      regRead 0x54 s = s.localAddr.extractLsb' 32 32 := by
  have peer := tagOf_of_lt hpeer
  have loc := tagOf_of_lt hlocal
  exact ⟨congrArg (·.extractLsb' 0 32) peer, congrArg (·.extractLsb' 32 32) peer,
    congrArg (·.extractLsb' 0 32) loc, congrArg (·.extractLsb' 32 32) loc⟩

/-! ## The register map -/

/-- Settles O14: each readable address by its line of the register map, every other address because
it is not readable; each write by the branch of `hostWriteEvent` its address selects. -/
theorem hostRegisterMap : Obligations.HostRegisterMap := by
  unfold Obligations.HostRegisterMap
  constructor
  · intro s a rest hin hpeer hlocal
    obtain ⟨peerLo, peerHi, localLo, localHi⟩ := regRead_tags hpeer hlocal
    refine ⟨regRead a s, step_hostRead hin, ?arg0, ?arg1, ?arg2, ?arg3, ?status, ?result,
      ?delivLen, ?cfg0, ?cfgRto, ?cfgLossP, ?cfg1, ?hsNxt, ?txLen, ?nxt, ?exp, ?sndcnt, ?tmr,
      ?peerLo, ?peerHi, ?localLo, ?localHi, ?unmapped⟩
    case unmapped =>
      exact fun h => regRead_of_not_readable (not_readable_of_cmd_or_past_or_misaligned h) s
    all_goals rintro rfl
    case cfg0 => exact regRead_cfg0 s
    case cfg1 => exact regRead_cfg1 s
    case sndcnt => exact regRead_sndcnt s
    case peerLo => exact peerLo
    case peerHi => exact peerHi
    case localLo => exact localLo
    case localHi => exact localHi
    all_goals rfl
  · intro s a d ans rest hin
    rw [step_hostWrite hin]
    and_intros
    iterate 5 · rintro rfl; rfl
    · exact fun h => hostWriteEvent_of_not_writable h d ans _

end Sys2Proof.Machine
end

section
/-! SUPPORT. The access rules of the host bus (spec/20_memory.md R64), read off the register map. -/

namespace Sys2Proof.Machine

/-- Every readable register stands at a word address (R28). -/
theorem not_readable_of_misaligned {a : Word} (h : a.toNat % 4 ≠ 0) : a ∉ readableAddrs := by
  have aligned : ∀ b ∈ readableAddrs, b.toNat % 4 = 0 := by simp [readableAddrs]
  exact fun ha => h (aligned a ha)

/-- Every address a write acts on is a word address, the last one ARG3's (R28). -/
theorem not_writable_of_misaligned_or_past {a : Word} (h : a.toNat % 4 ≠ 0 ∨ 16 < a.toNat) :
    a ∉ writableAddrs := by
  have bounds : ∀ b ∈ writableAddrs, b.toNat % 4 = 0 ∧ b.toNat ≤ 16 := by simp [writableAddrs]
  intro ha
  obtain ⟨haligned, hle⟩ := bounds a ha
  omega

/-- Settles O15: a read by the step of a host read, which is 0 where no register stands; a write by
the write rules of the register map (O14), its addresses read as numbers. -/
theorem hostBusAccessRules : Obligations.HostBusAccessRules := by
  unfold Obligations.HostBusAccessRules
  constructor
  · intro s a rest hin
    exact ⟨regRead a s, step_hostRead hin,
      fun h => regRead_of_not_readable (not_readable_of_misaligned h) s⟩
  · intro s a d ans rest hin
    obtain ⟨-, writes⟩ := hostRegisterMap
    obtain ⟨cmd, arg0, arg1, arg2, arg3, ignored⟩ := writes s a d ans rest hin
    exact ⟨fun h => cmd (BitVec.eq_of_toNat_eq h), fun h => arg0 (BitVec.eq_of_toNat_eq h),
      fun h => arg1 (BitVec.eq_of_toNat_eq h), fun h => arg2 (BitVec.eq_of_toNat_eq h),
      fun h => arg3 (BitVec.eq_of_toNat_eq h),
      fun h => ignored (not_writable_of_misaligned_or_past h)⟩

end Sys2Proof.Machine
end

section
/-! SUPPORT. The wire codec (spec/40_codec.md R110 to R115): when `deframe` accepts, what it
reads, and that reading and writing a header are inverse to each other. -/

namespace Sys2Proof

/-! ## Acceptance (R114) -/

theorem deframe_of_length_out_of_range {P : Params} {dg : List Byte}
    (h : dg.length < 12 ∨ P.dgramMax < dg.length) : deframe P dg = .error ⟨dg.length⟩ := by
  rw [deframe]
  obtain hshort | hlong := h
  · rw [if_pos hshort]
  · rw [if_pos hlong, ite_self]

theorem deframe_of_length_in_range {P : Params} {dg : List Byte} (hmin : 12 ≤ dg.length)
    (hmax : dg.length ≤ P.dgramMax) : deframe P dg = .ok (readHdr dg, dg.drop 12) := by
  rw [deframe, if_neg (Nat.not_lt.mpr hmin), if_neg (Nat.not_lt.mpr hmax)]

/-! ## Integers: writing what was read (R9) -/

/-- The inverse of `be16_field`. -/
theorem be16_packed (b0 b1 : Byte) : be16 (b0 ++ b1) = [b0, b1] := by
  have high : (b0 ++ b1).extractLsb' 8 8 = b0 := BitVec.extractLsb'_append_eq_left
  have low : (b0 ++ b1).extractLsb' 0 8 = b1 := BitVec.extractLsb'_append_eq_right
  rw [be16, high, low]

/-- The inverse of `be32_field`. -/
theorem be32_packed (b0 b1 b2 b3 : Byte) :
    be32 (b0 ++ b1 ++ b2 ++ b3) = [b0, b1, b2, b3] := by
  have := b0.isLt
  have := b1.isLt
  have := b2.isLt
  have := b3.isLt
  simp only [be32, List.cons.injEq, and_true]
  refine ⟨?_, ?_, ?_, ?_⟩ <;>
  · apply BitVec.eq_of_toNat_eq
    simp only [toNat_field, toNat_packed]
    omega

/-! ## The flags word (R91, R112) -/

/-- The weights of the four flag bits and of the unused bits. -/
theorem flagword_toNat (h : Header) :
    (flagword h).toNat = h.syn.toNat * 2 ^ 15 + h.ackf.toNat * 2 ^ 14 + h.fin.toNat * 2 ^ 13
      + h.rst.toNat * 2 ^ 12 + h.unused.toNat := by
  simp only [flagword, toNat_packed, BitVec.toNat_ofBool]
  omega

/-- A bit of a word, as a number. -/
theorem toNat_getLsbD {n : Nat} (v : BitVec n) (i : Nat) :
    (v.getLsbD i).toNat = v.toNat / 2 ^ i % 2 := by
  rw [BitVec.getLsbD, Nat.toNat_testBit]

/-- The fields of the flags word (R95), read off its weights. -/
theorem flagword_fields (h : Header) :
    (flagword h).getLsbD 15 = h.syn ∧ (flagword h).getLsbD 14 = h.ackf ∧
      (flagword h).getLsbD 13 = h.fin ∧ (flagword h).getLsbD 12 = h.rst ∧
      (flagword h).extractLsb' 0 12 = h.unused := by
  have hweights := flagword_toNat h
  have := h.syn.toNat_lt
  have := h.ackf.toNat_lt
  have := h.fin.toNat_lt
  have := h.rst.toNat_lt
  have := h.unused.isLt
  refine ⟨?_, ?_, ?_, ?_, BitVec.extractLsb'_append_eq_right⟩ <;>
  · rw [Bool.eq_iff_iff, ← Bool.toNat_eq_one, ← Bool.toNat_eq_one, toNat_getLsbD]
    omega

/-- The flags word of a header that was read is the word of bytes 8 and 9 (R95, R112). -/
theorem flagword_readHdr (dg : List Byte) : flagword (readHdr dg) = rdBe16 dg 8 := by
  apply BitVec.eq_of_toNat_eq
  have := (rdBe16 dg 8).isLt
  simp only [flagword_toNat, readHdr, toNat_getLsbD, toNat_field]
  omega

/-! ## Headers (R95, R111) -/

/-- Reading back the header that `frame` wrote. -/
theorem readHdr_frame (h : Header) (p : List Byte) : readHdr (frame h p) = h := by
  have hseq : rdBe32 (frame h p) 0 = h.seq := be32_field h.seq
  have hack : rdBe32 (frame h p) 4 = h.ack := be32_field h.ack
  have hflags : rdBe16 (frame h p) 8 = flagword h := be16_field (flagword h)
  have hwin : rdBe16 (frame h p) 10 = h.win := be16_field h.win
  obtain ⟨hsyn, hackf, hfin, hrst, hunused⟩ := flagword_fields h
  simp only [readHdr, hseq, hack, hflags, hwin, hsyn, hackf, hfin, hrst, hunused]

/-- Writing the header that was read gives the first twelve bytes back. -/
theorem frame_readHdr {dg : List Byte} (hmin : 12 ≤ dg.length) :
    frame (readHdr dg) (dg.drop 12) = dg := by
  match dg, hmin with
  | b0 :: b1 :: b2 :: b3 :: b4 :: b5 :: b6 :: b7 :: b8 :: b9 :: b10 :: b11 :: payload, _ =>
    rw [frame, encodeHdr, flagword_readHdr]
    change be32 (b0 ++ b1 ++ b2 ++ b3) ++ be32 (b4 ++ b5 ++ b6 ++ b7) ++ be16 (b8 ++ b9)
      ++ be16 (b10 ++ b11) ++ payload = _
    rw [be32_packed, be32_packed, be16_packed, be16_packed]
    rfl

/-- The header of a datagram, byte by byte: bytes 8 and 9 hold the four flags and the unused
bits. -/
theorem readHdr_bytes (b0 b1 b2 b3 b4 b5 b6 b7 b8 b9 b10 b11 : Byte) (payload : List Byte) :
    readHdr (b0 :: b1 :: b2 :: b3 :: b4 :: b5 :: b6 :: b7 :: b8 :: b9 :: b10 :: b11 :: payload) =
      { seq := b0 ++ b1 ++ b2 ++ b3, ack := b4 ++ b5 ++ b6 ++ b7,
        syn := b8.getLsbD 7, ackf := b8.getLsbD 6, fin := b8.getLsbD 5, rst := b8.getLsbD 4,
        unused := b8.extractLsb' 0 4 ++ b9, win := b10 ++ b11 } := by
  have hflag (i : Nat) : (b8 ++ b9).getLsbD (8 + i) = b8.getLsbD i := by
    rw [BitVec.getLsbD_append, if_neg (by omega), Nat.add_sub_cancel_left]
  have hunused : (b8 ++ b9).extractLsb' 0 12 = b8.extractLsb' 0 4 ++ b9 := by
    apply BitVec.eq_of_toNat_eq
    have := b9.isLt
    simp only [toNat_field, toNat_packed]
    omega
  change Header.mk _ _ ((b8 ++ b9).getLsbD (8 + 7)) ((b8 ++ b9).getLsbD (8 + 6))
    ((b8 ++ b9).getLsbD (8 + 5)) ((b8 ++ b9).getLsbD (8 + 4)) ((b8 ++ b9).extractLsb' 0 12) _ = _
  rw [hflag, hflag, hflag, hflag, hunused]
  rfl

/-! ## The codec's obligations -/

/-- Settles O1: both lengths are in range, and reading and writing a header undo each other. -/
theorem deframeFrameRoundTrip : Obligations.DeframeFrameRoundTrip := by
  unfold Obligations.DeframeFrameRoundTrip
  constructor
  · intro P h p hp
    have hlen := length_frame h p
    rw [deframe_of_length_in_range (by omega) (by rw [hlen]; exact Nat.add_le_add_left hp 12),
      readHdr_frame, drop_frame]
  · intro P dg hmin hmax
    exact ⟨readHdr dg, dg.drop 12, deframe_of_length_in_range hmin hmax, frame_readHdr hmin⟩

/-- Settles O4: the two refusals by length, and the header's bytes where the length is in range. -/
theorem deframeReadsBigEndianFields : Obligations.DeframeReadsBigEndianFields := by
  unfold Obligations.DeframeReadsBigEndianFields
  constructor
  · intro P dg hlen
    exact deframe_of_length_out_of_range hlen
  · intro P b0 b1 b2 b3 b4 b5 b6 b7 b8 b9 b10 b11 payload hmax
    rw [deframe_of_length_in_range (by simp) (by simp only [List.length_cons]; omega),
      readHdr_bytes]
    rfl

/-- Settles O5: the twelve bytes are those `encodeHdr` lists; the flags word by its bit weights. -/
theorem frameWritesBigEndianFields : Obligations.FrameWritesBigEndianFields := by
  unfold Obligations.FrameWritesBigEndianFields
  exact ⟨fun _ _ => rfl, flagword_toNat⟩

end Sys2Proof
end

section
/-! SUPPORT. The command check branch by branch (spec/60_exceptions.md R261, R262), and the
lifecycle commands CONFIGURE to CLOSE, WRTX and RDRX (spec/41_lifecycle.md R146 to R152). -/

namespace Sys2Proof.Machine

/-! ## The command check (R261) -/

section
variable {c : CmdCheck} {s : State} (handler : State → State)

/-- BUSY is the first check; CLOSE and RDRX are exempt from it. -/
theorem runCmd_errBusy (hbusy : busy s = true) (hwhile : c.whileBusy = false) :
    runCmd c handler s = { s with code := .errBusy } :=
  runCmd_refused handler (by simp [checkCmd, hbusy, hwhile]) (by decide)

/-- STATE is checked once BUSY is passed. -/
theorem runCmd_errState (hpass : busy s = false ∨ c.whileBusy = true)
    (hstate : c.stateOk = false) : runCmd c handler s = { s with code := .errState } :=
  runCmd_refused handler (by obtain h | h := hpass <;> simp [checkCmd, h, hstate]) (by decide)

/-- CONFIG is checked once BUSY and STATE are passed. -/
theorem runCmd_errConfig (hpass : busy s = false ∨ c.whileBusy = true)
    (hstate : c.stateOk = true) (hconfig : c.configOk = false) :
    runCmd c handler s = { s with code := .errConfig } :=
  runCmd_refused handler (by obtain h | h := hpass <;> simp [checkCmd, h, hstate, hconfig])
    (by decide)

/-- RANGE is the last check. -/
theorem runCmd_errRange (hpass : busy s = false ∨ c.whileBusy = true)
    (hstate : c.stateOk = true) (hconfig : c.configOk = true) (hrange : c.rangeOk = false) :
    runCmd c handler s = { s with code := .errRange } :=
  runCmd_refused handler
    (by obtain h | h := hpass <;> simp [checkCmd, h, hstate, hconfig, hrange]) (by decide)

/-- All four checks passed. -/
theorem checkCmd_ok (hpass : busy s = false ∨ c.whileBusy = true) (hstate : c.stateOk = true)
    (hconfig : c.configOk = true) (hrange : c.rangeOk = true) : checkCmd c s = .ok := by
  obtain h | h := hpass <;> simp [checkCmd, h, hstate, hconfig, hrange]

/-- A command past all four checks runs its handler with CODE = OK. -/
theorem runCmd_accepted (hpass : busy s = false ∨ c.whileBusy = true) (hstate : c.stateOk = true)
    (hconfig : c.configOk = true) (hrange : c.rangeOk = true) :
    runCmd c handler s = handler { s with code := .ok } :=
  runCmd_ok handler (checkCmd_ok hpass hstate hconfig hrange)

end

/-! ## CONFIGURE (R146) -/

theorem configLegal_eq_false_iff (s : State) :
    configLegal s = false ↔
      s.arg0.toNat % 2 ^ 16 = 0 ∨ s.params.mpsMax < s.arg0.toNat % 2 ^ 16 ∨
        s.arg0.toNat / 2 ^ 16 = 0 ∨ s.params.wMax < s.arg0.toNat / 2 ^ 16 ∨ s.arg1 = 0 := by
  have hrto : s.arg1 = 0 ↔ s.arg1.toNat = 0 := BitVec.toNat_inj.symm
  rw [← Bool.not_eq_true, configLegal_iff, hrto]
  omega

/-- Settles O16: ERR_BUSY and ERR_CONFIG by the check's branches; past it the handler writes each
register from its operand field. -/
theorem configureWritesOrRefuses : Obligations.ConfigureWritesOrRefuses := by
  unfold Obligations.ConfigureWritesOrRefuses
  intro s
  simp only [exec, execConfigure]
  refine ⟨fun hbusy => ?busy, fun hidle => ⟨?accepted, fun hillegal => ?illegal⟩⟩
  case busy => rw [runCmd_errBusy _ hbusy rfl]
  case accepted =>
    rintro ⟨hmps, hmps', hwin, hwin', hrto⟩
    have hlegal : configLegal s = true := (configLegal_iff s).2
      ⟨hmps, hmps', hwin, hwin', Nat.one_le_iff_ne_zero.2 (BitVec.toNat_ne.1 hrto)⟩
    rw [runCmd_accepted _ (.inl hidle) rfl hlegal rfl, ← opMps_toNat, ← opWin_toNat,
      BitVec.ofNat_toNat, BitVec.ofNat_toNat, BitVec.setWidth_eq, BitVec.setWidth_eq]
    rfl
  case illegal =>
    rw [runCmd_errConfig _ (.inl hidle) rfl ((configLegal_eq_false_iff s).2 hillegal)]

/-! ## BIND (R147) -/

/-- Settles O17: SOCK_OPEN = 1 fails the STATE check; past the checks the handler's match on the
environment's answer. -/
theorem bindTakesTheEnvironmentsAnswer : Obligations.BindTakesTheEnvironmentsAnswer := by
  unfold Obligations.BindTakesTheEnvironmentsAnswer
  simp only [exec, execBind]
  constructor
  · intro s hidle hsock
    rw [runCmd_errState _ (.inl hidle) (by simp [hsock])]
  · intro s hidle hsock hrange _
    have haddr : opAddr { s with code := .ok } = BitVec.ofNat 64 (addrOperand s) :=
      opAddr_of_lt hrange
    rw [runCmd_accepted _ (.inl hidle) (by simp [hsock]) rfl ((addrInRange_iff s).2 hrange)]
    refine ⟨?ok, ?invalid, ?inUse, ?resource⟩ <;> intro hanswer <;>
      simp only [bindHandler, hanswer, haddr, setCode]

/-! ## LISTEN (R148) -/

/-- Settles O18: past its checks LISTEN is its handler, field by field. -/
theorem listenStartsWaiting : Obligations.ListenStartsWaiting := by
  unfold Obligations.ListenStartsWaiting
  intro s hidle hsock hclosed hcfg
  rw [exec, execListen, runCmd_accepted _ (.inl hidle) (by simp [hsock, hclosed]) hcfg rfl]
  rfl

/-! ## CONNECT (R149) -/

/-- The SYN CONNECT sends to the address operand (R120). -/
def connectSyn (s : State) : TxRecord where
  bytes := synPkt s
  dest := BitVec.ofNat 64 (addrOperand s)
  cls := .hs

/-- CONNECT once a socket is open, with the address in range: the operand itself is the tag. -/
theorem connectOpen_of_lt (s : State) (hrange : addrOperand s < 2 ^ s.params.addrW) :
    connectOpen s = { s with
      peerAddr := BitVec.ofNat 64 (addrOperand s)
      hsNxt := 0
      linger := false
      txLen := 0
      nxt := 0
      sndBuf := []
      connState := .synSent
      tmr := s.cfgRto
      tmrArmed := true
      out := { s.out with tx := s.out.tx ++ [connectSyn s] } } := by
  rw [connectOpen, opAddr_of_lt hrange]
  rfl

/-- Settles O19: with a socket open `connectOpen`; with none, the handler's match on the
environment's answer comes first. -/
theorem connectSendsSyn : Obligations.ConnectSendsSyn := by
  unfold Obligations.ConnectSendsSyn
  intro s hidle hclosed hcfg hrange _ syn t
  rw [exec, execConnect,
    runCmd_accepted _ (.inl hidle) (by simp [hclosed]) hcfg ((addrInRange_iff s).2 hrange)]
  refine ⟨fun hsock => ?socketOpen, fun hsock e hanswer htag => ?opened,
    fun hsock hanswer => ?noResource⟩
  case socketOpen =>
    rw [connectHandler, if_pos hsock, connectOpen_of_lt { s with code := .ok } hrange]
    simp only [hsock]
    rfl
  case opened =>
    simp only [connectHandler, hsock, hanswer, tagOf_of_lt htag]
    rw [if_neg (by decide),
      connectOpen_of_lt { s with code := .ok, sockOpen := true, localAddr := e } hrange]
    rfl
  case noResource =>
    simp only [connectHandler, hsock, hanswer]
    rfl

/-! ## CLOSE (R150) -/

/-- Settles O20: no check refuses CLOSE, so its handler runs in every state. -/
theorem closeAbortsInEveryState : Obligations.CloseAbortsInEveryState := by
  unfold Obligations.CloseAbortsInEveryState
  intro s
  rw [exec, execClose, runCmd_accepted _ (.inr rfl) rfl rfl rfl]
  rfl

/-! ## WRTX and RDRX (R151, R152) -/

/-- Reading TXMEM after a byte was written there, at that address and at every other. -/
theorem txByte_insertKey (s : State) (c : ResultCode) (k a : Nat) (b : Byte) :
    txByte { s with code := c, txMem := insertKey k b s.txMem } a =
      if a = k then b else txByte s a := by
  simp only [txByte, lookupKey_insertKey]
  split <;> rfl

/-- Settles O21: the two refusals by the check's branches; the write by reading TXMEM after it. -/
theorem wrtxWritesOneByte : Obligations.WrtxWritesOneByte := by
  unfold Obligations.WrtxWritesOneByte
  intro s
  simp only [exec, execWrtx]
  refine ⟨fun hbusy => ?busy, fun hidle hout => ?outOfRange, fun hidle hin => ?written⟩
  case busy => rw [runCmd_errBusy _ hbusy rfl]
  case outOfRange =>
    have hrange : txAddrInRange s = false := by
      rw [← Bool.not_eq_true, txAddrInRange_iff]
      exact Nat.not_lt.2 hout
    rw [runCmd_errRange _ (.inl hidle) rfl rfl hrange]
  case written =>
    rw [runCmd_accepted _ (.inl hidle) rfl rfl ((txAddrInRange_iff s).2 hin)]
    exact ⟨insertKey (opByteAddr s) (opByte s) s.txMem, rfl,
      fun a => txByte_insertKey s .ok (opByteAddr s) a (opByte s)⟩

/-- Settles O22: DELIV_LEN decides the RANGE check, the only one RDRX has; BUSY is exempt. -/
theorem rdrxReadsDeliveredByte : Obligations.RdrxReadsDeliveredByte := by
  unfold Obligations.RdrxReadsDeliveredByte
  intro s
  simp only [exec, execRdrx]
  constructor
  · intro hin
    have hok : checkCmd ⟨true, true, true, delivAddrInRange s⟩ s = .ok :=
      checkCmd_ok (.inr rfl) rfl rfl ((delivAddrInRange_iff s).2 hin)
    rw [if_pos hok, runCmd_ok _ hok, BitVec.ofNat_toNat]
    rfl
  · intro hout
    have hrange : delivAddrInRange s = false := by
      rw [← Bool.not_eq_true, delivAddrInRange_iff]
      exact Nat.not_lt.2 hout
    rw [if_neg (by simp [checkCmd, hrange]), runCmd_errRange _ (.inr rfl) rfl rfl hrange]

end Sys2Proof.Machine
end

section
/-! SUPPORT. The connection FSM (spec/41_lifecycle.md R142 to R169): which packets a state acts on,
what becomes of every other one, the packets that complete a wait, and the timer's expiry. -/

namespace Sys2Proof.Machine

/-! ## Packets a state acts on (R142) -/

/-- The state acts on the packet: its class is one the state waits for (R155 to R168, R196 to R206,
R231, R239). A command is not a packet and is counted as acted on. -/
def actsOn (s : State) : Instr → Prop
  | .pktSyn _ => s.connState = .listen
  | .pktSynack _ => s.connState = .synSent
  | .pktAck p =>
    s.connState = .synReceived ∨
      s.connState = .established ∧ (s.xfer.isSend = true ∨ s.xfer.isRecv = true ∧ p.payload ≠ [])
  | .pktNone p => s.connState = .established ∧ s.xfer.isRecv = true ∧ p.payload ≠ []
  | .pktFin _ =>
    s.connState = .closed ∨ s.connState = .established ∧ s.xfer.isRecv = true
  | .pktFinack _ => s.connState = .closing
  | .pktInvalidSynfin _ => False
  | .pktInvalidSynackfin _ => False
  | .configure | .bind | .listen | .connect | .sendSaw | .sendGbn | .sendSr | .recvSaw | .recvGbn
  | .recvSr | .close | .wrtx | .rdrx => True

/-- A receiver ignores an ACK or NONE packet without payload (R241). -/
theorem ackOrNoneInRecv_of_payload_nil {p : Packet} (h : p.payload = []) (s : State) :
    ackOrNoneInRecv p s = ignorePacket s := if_pos h

/-- An ACK that ESTABLISHED does not act on has met a receiver and has no payload: the engine is no
sender, and `rx_ready` = 1 says that one is running. -/
theorem ackInEstablished_of_not_actsOn {s : State} {p : Packet} (hready : rxReady s = true)
    (hc : s.connState = .established) (h : ¬ actsOn s (.pktAck p)) :
    ackInEstablished p s = ignorePacket s := by
  simp only [actsOn, hc, not_or, not_and, true_and, not_not] at h
  obtain ⟨-, hsend, hrecv⟩ := h
  rw [ackInEstablished]
  cases hx : s.xfer
  case idle => simp [rxReady, hc, hx] at hready
  case recvSaw | recvGbn | recvSr =>
    exact ackOrNoneInRecv_of_payload_nil (hrecv (by rw [hx]; rfl)) s
  all_goals exact absurd (by rw [hx]; rfl) hsend

/-- A packet the state does not act on is ignored (R142, R144). -/
theorem exec_of_not_actsOn {s : State} {i : Instr} (hready : rxReady s = true)
    (h : ¬ actsOn s i) : exec i s = .next (ignorePacket s) := by
  cases i
  case pktSyn p =>
    rw [exec, execPktSyn, whenReady_of_ready _ hready, onSyn]
    cases hc : s.connState
    case listen => exact absurd hc h
    all_goals rfl
  case pktSynack p =>
    rw [exec, execPktSynack, whenReady_of_ready _ hready, onSynack]
    cases hc : s.connState
    case synSent => exact absurd hc h
    all_goals rfl
  case pktAck p =>
    rw [exec, execPktAck, whenReady_of_ready _ hready, onAck]
    cases hc : s.connState
    case synReceived => exact absurd (.inl hc) h
    case established => exact congrArg _ (ackInEstablished_of_not_actsOn hready hc h)
    all_goals rfl
  case pktNone p =>
    rw [exec, execPktNone, whenReady_of_ready _ hready, onNone]
    cases hc : s.connState
    case established =>
      by_cases hrecv : s.xfer.isRecv = true
      · have hnil : p.payload = [] := by_contra fun hp => h ⟨hc, hrecv, hp⟩
        simp only [if_pos hrecv, ackOrNoneInRecv_of_payload_nil hnil]
      · simp only [if_neg hrecv]
    all_goals rfl
  case pktFin p =>
    rw [exec, execPktFin, whenReady_of_ready _ hready, onFin]
    cases hc : s.connState
    case closed => exact absurd (.inl hc) h
    case established => simp only [if_neg fun hrecv => h (.inr ⟨hc, hrecv⟩)]
    all_goals rfl
  case pktFinack p =>
    rw [exec, execPktFinack, whenReady_of_ready _ hready, onFinack]
    cases hc : s.connState
    case closing => exact absurd hc h
    all_goals rfl
  case pktInvalidSynfin p => rw [exec, execPktInvalidSynfin, whenReady_of_ready _ hready]
  case pktInvalidSynackfin p => rw [exec, execPktInvalidSynackfin, whenReady_of_ready _ hready]
  all_goals exact absurd trivial h

/-- Where R144 restarts the wait, a packet not acted on re-arms the timer and does nothing else. -/
theorem exec_restarts_wait {s : State} {i : Instr} (hready : rxReady s = true)
    (hwait : waitRestarts s = true) (h : ¬ actsOn s i) :
    exec i s = .next { s with tmr := s.cfgRto, tmrArmed := true } := by
  rw [exec_of_not_actsOn hready h, ignorePacket_eq, if_pos hwait]

/-- Elsewhere a packet not acted on changes nothing. -/
theorem exec_changes_nothing {s : State} {i : Instr} (hready : rxReady s = true)
    (hwait : waitRestarts s = false) (h : ¬ actsOn s i) : exec i s = .next s := by
  rw [exec_of_not_actsOn hready h, ignorePacket_eq, if_neg (by rw [hwait]; decide)]

/-! ## Readiness in a wait (R141) -/

/-- The states of a handshake or of the teardown, each waiting for one class of packet (R155 to
R167). -/
abbrev Waiting (s : State) : Prop :=
  s.connState ∈ [ConnState.listen, .synReceived, .synSent, .closing]

/-- With a socket open a wait takes datagrams (R141). -/
theorem rxReady_of_waiting {s : State} (hsock : s.sockOpen = true) (h : Waiting s) :
    rxReady s = true := by
  simp only [Waiting, List.mem_cons, List.not_mem_nil, or_false] at h
  exact (rxReady_iff s).2 ⟨hsock, by tauto⟩

/-- The timer of a wait restarts (R144). -/
theorem waitRestarts_of_waiting {s : State} (h : Waiting s) : waitRestarts s = true := by
  simp only [Waiting, List.mem_cons, List.not_mem_nil, or_false] at h
  obtain hc | hc | hc | hc := h <;> rw [waitRestarts, hc]

/-- Linger takes datagrams (R141). -/
theorem rxReady_of_linger {s : State} (hsock : s.sockOpen = true) (hc : s.connState = .closed)
    (hlinger : s.linger = true) : rxReady s = true :=
  (rxReady_iff s).2 ⟨hsock, by simp [hc, hlinger]⟩

/-- A receiver takes datagrams, and no wait of its own restarts (R141, R144). -/
theorem receiving_ready {s : State} (hsock : s.sockOpen = true) (h : Receiving s) :
    rxReady s = true ∧ waitRestarts s = false := by
  obtain ⟨hc, hrecv⟩ := h
  cases hx : s.xfer
  case recvSaw | recvGbn | recvSr => simp [rxReady, waitRestarts, hsock, hc, hx]
  all_goals simp [hx, Xfer.isRecv] at hrecv

/-! ## Packets that are only ignored (R156, R159, R162, R166, R169, R241) -/

/-- Settles O29: each listed class is one its state does not act on. -/
theorem otherClassesOnlyRestartTheWait : Obligations.OtherClassesOnlyRestartTheWait := by
  unfold Obligations.OtherClassesOnlyRestartTheWait
  intro s p hsock
  refine ⟨fun hc i hi => ?_, fun hc i hi => ?_, fun hc i hi => ?_, fun hc i hi => ?_⟩ <;>
  · have hwaiting : Waiting s := by simp [hc]
    have hquiet : ¬ actsOn s i := by
      revert i
      simp [actsOn, hc]
    exact exec_restarts_wait (rxReady_of_waiting hsock hwaiting)
      (waitRestarts_of_waiting hwaiting) hquiet

/-- Settles O31: linger acts on a FIN alone and a receiver on data and the FIN; neither is a wait
R144 restarts. -/
theorem lingerAndReceiverIgnoreStrays : Obligations.LingerAndReceiverIgnoreStrays := by
  unfold Obligations.LingerAndReceiverIgnoreStrays
  intro s p hsock
  constructor
  · intro hc hlinger i hi
    have hquiet : ¬ actsOn s i := by
      revert i
      simp [actsOn, hc]
    exact exec_changes_nothing (rxReady_of_linger hsock hc hlinger)
      (by rw [waitRestarts, hc]) hquiet
  · intro hc hx
    obtain ⟨hrecv, hsend⟩ : s.xfer.isRecv = true ∧ s.xfer.isSend = false := by
      simp only [List.mem_cons, List.not_mem_nil, or_false] at hx
      obtain hx | hx | hx := hx <;> rw [hx] <;> decide
    obtain ⟨hready, hwait⟩ := receiving_ready hsock ⟨hc, hrecv⟩
    refine ⟨fun i hi => ?_, fun hnil => ⟨?_, ?_⟩⟩
    · have hquiet : ¬ actsOn s i := by
        revert i
        simp [actsOn, hc]
      exact exec_changes_nothing hready hwait hquiet
    · exact exec_changes_nothing hready hwait (by simp [actsOn, hc, hsend, hnil])
    · exact exec_changes_nothing hready hwait (by simp [actsOn, hnil])

/-! ## Completions (R10) -/

/-- A completion writes CODE and reports it on the hook port. -/
theorem finish_eq (c : ResultCode) (s : State) :
    finish c s =
      { s with code := c, out := { s.out with hooks := s.out.hooks ++ [.done c] } } := rfl

/-! ## The packet a state waits for (R155, R158, R161, R165, R168) -/

section
variable {s : State} (p : Packet)

theorem onSyn_of_listen (hc : s.connState = .listen) : onSyn p s = synInListen p s := by
  rw [onSyn, hc]

theorem onAck_of_synReceived (hc : s.connState = .synReceived) :
    onAck p s = ackInSynReceived s := by
  rw [onAck, hc]

theorem onSynack_of_synSent (hc : s.connState = .synSent) :
    onSynack p s = synackInSynSent p s := by
  rw [onSynack, hc]

theorem onFinack_of_closing (hc : s.connState = .closing) : onFinack p s = finackInClosing s := by
  rw [onFinack, hc]

theorem onFin_of_closed (hc : s.connState = .closed) : onFin p s = finInLinger p s := by
  rw [onFin, hc]

end

/-- Settles O24: the SYN-ACK carries the new HS_NXT to the new peer. -/
theorem synInListenIsAnswered : Obligations.SynInListenIsAnswered := by
  unfold Obligations.SynInListenIsAnswered
  intro s p hsock hc
  have hready := rxReady_of_waiting hsock (by simp [hc])
  rw [exec, execPktSyn, whenReady_of_ready _ hready, onSyn_of_listen p hc]
  rfl

/-- Settles O25: the packet's fields do not occur in the handler. -/
theorem ackInSynReceivedEstablishes : Obligations.AckInSynReceivedEstablishes := by
  unfold Obligations.AckInSynReceivedEstablishes
  intro s p hsock hc
  have hready := rxReady_of_waiting hsock (by simp [hc])
  rw [exec, execPktAck, whenReady_of_ready _ hready, onAck_of_synReceived p hc]
  rfl

/-- Settles O26: HS_NXT is set before the handshake ACK that carries it is made. -/
theorem synackInSynSentEstablishes : Obligations.SynackInSynSentEstablishes := by
  unfold Obligations.SynackInSynSentEstablishes
  intro s p hsock hc
  have hready := rxReady_of_waiting hsock (by simp [hc])
  rw [exec, execPktSynack, whenReady_of_ready _ hready, onSynack_of_synSent p hc, synackInSynSent,
    finish_eq]
  simp only [disarm, emit, hsackPkt, txHeader]

/-- Settles O27: the completion is reported on top of the closed, cleared state. -/
theorem finackInClosingCompletesSend : Obligations.FinackInClosingCompletesSend := by
  unfold Obligations.FinackInClosingCompletesSend
  intro s p hsock hc
  have hready := rxReady_of_waiting hsock (by simp [hc])
  rw [exec, execPktFinack, whenReady_of_ready _ hready, onFinack_of_closing p hc, finackInClosing,
    finish_eq]
  simp only [pulseXferReset, clearSender, disarm]

/-- Settles O28: the handler writes the TX port alone. -/
theorem finInLingerIsAnswered : Obligations.FinInLingerIsAnswered := by
  unfold Obligations.FinInLingerIsAnswered
  intro s p hsock hc hlinger
  have hready := rxReady_of_linger hsock hc hlinger
  rw [exec, execPktFin, whenReady_of_ready _ hready, onFin_of_closed p hc]
  rfl

/-! ## The timer's expiry (R266) -/

/-- The state in which `Expire()` runs on the tick that brings TMR to 0: the timer is disarmed and
the timeout is on the hook port. -/
def timedOut (s : State) (rest : List Event) : State :=
  { s with
    inputs := rest
    tmr := 0
    tmrArmed := false
    out := { StepOutput.none with hooks := [.timeout s.connState s.xfer] } }

/-- The tick that brings TMR to 0 runs `Expire()` (R266). -/
theorem step_tick_expire {s : State} {rest : List Event} (hin : s.inputs = .tick :: rest)
    (harmed : s.tmrArmed = true) (htmr : s.tmr = 1) :
    step s = .next (expire (timedOut s rest)) := by
  have hzero : s.tmr - 1 = 0 := by rw [htmr]; rfl
  rw [step_of_inputs hin, eventStep, tickEvent]
  simp only [beginStep_fields, harmed, hzero, if_true]
  rfl

section
variable (s : State)

theorem expire_of_listen (hc : s.connState = .listen) : expire s = arm s := by
  rw [expire, hc]

theorem expire_of_synReceived (hc : s.connState = .synReceived) :
    expire s = expireSynReceived s := by
  rw [expire, hc]

theorem expire_of_synSent (hc : s.connState = .synSent) : expire s = expireSynSent s := by
  rw [expire, hc]

theorem expire_of_closing (hc : s.connState = .closing) : expire s = expireClosing s := by
  rw [expire, hc]

end

/-- Settles O48: the tick runs `Expire()`, whose branch the state selects. -/
theorem expiryInHandshakeAndTeardown : Obligations.ExpiryInHandshakeAndTeardown := by
  unfold Obligations.ExpiryInHandshakeAndTeardown
  intro s rest hin harmed htmr
  rw [step_tick_expire hin harmed htmr]
  refine ⟨fun hc => ?listen, fun hc => ?synReceived, fun hc => ?synSent, fun hc => ?closing⟩
  case listen =>
    rw [expire_of_listen (timedOut s rest) hc]
    simp only [arm, timedOut, hc, harmed]
  case synReceived =>
    rw [expire_of_synReceived (timedOut s rest) hc]
    simp only [expireSynReceived, arm, timedOut, hc, harmed]
  case synSent =>
    rw [expire_of_synSent (timedOut s rest) hc, expireSynSent, finish_eq]
    simp only [disarm, timedOut, hc]
    rfl
  case closing =>
    rw [expire_of_closing (timedOut s rest) hc, expireClosing]
    simp only [arm, pushHook, emit, timedOut, hc, harmed]
    rfl

end Sys2Proof.Machine
end

section
/-! SUPPORT. The sender engines (spec/42_sender.md R196 to R209): what is left of SNDBUF when an ACK
matches, the one chunk that refills the window, the packets that only restart the wait or change
nothing, and the timer's resends. -/

namespace Sys2Proof.Machine

/-! ## A running sender takes datagrams (R141) -/

section
variable {s : State} (p : Packet)

theorem rxReady_of_sending (hsock : s.sockOpen = true) (h : Sending s) : rxReady s = true := by
  obtain ⟨hc, hsend⟩ := h
  have hx : s.xfer ≠ .idle := fun hidle => by simp [hidle, Xfer.isSend] at hsend
  exact (rxReady_iff s).2 ⟨hsock, by simp [hc, hx]⟩

/-- The engine that XFER names answers an ACK. -/
theorem exec_pktAck_of_sending (hsock : s.sockOpen = true) (h : Sending s) :
    exec (.pktAck p) s = .next (ackInEstablished p s) := by
  rw [exec, execPktAck, whenReady_of_ready _ (rxReady_of_sending hsock h), onAck, h.1]

theorem exec_pktAck_of_sendSaw (hsock : s.sockOpen = true) (hc : s.connState = .established)
    (hx : s.xfer = .sendSaw) : exec (.pktAck p) s = .next (ackInSaw p s) := by
  rw [exec_pktAck_of_sending p hsock ⟨hc, by rw [hx]; rfl⟩, ackInEstablished, hx]

theorem exec_pktAck_of_sendGbn (hsock : s.sockOpen = true) (hc : s.connState = .established)
    (hx : s.xfer = .sendGbn) : exec (.pktAck p) s = .next (ackInGbn p s) := by
  rw [exec_pktAck_of_sending p hsock ⟨hc, by rw [hx]; rfl⟩, ackInEstablished, hx]

theorem exec_pktAck_of_sendSr (hsock : s.sockOpen = true) (hc : s.connState = .established)
    (hx : s.xfer = .sendSr) : exec (.pktAck p) s = .next (ackInSr p s) := by
  rw [exec_pktAck_of_sending p hsock ⟨hc, by rw [hx]; rfl⟩, ackInEstablished, hx]

end

/-! ## Packets a sender ignores (R197, R202, R208) -/

/-- The packets of every class but ACK. -/
abbrev nonAckPackets (p : Packet) : List Instr :=
  [.pktSyn p, .pktSynack p, .pktNone p, .pktFin p, .pktFinack p, .pktInvalidSynfin p,
    .pktInvalidSynackfin p]

/-- A sender acts on ACKs alone. -/
theorem not_actsOn_of_sending {s : State} {p : Packet} {i : Instr} (h : Sending s)
    (hi : i ∈ nonAckPackets p) : ¬ actsOn s i := by
  obtain ⟨hc, hsend⟩ := h
  have hrecv : s.xfer.isRecv = false := by
    cases hx : s.xfer
    case recvSaw | recvGbn | recvSr => simp [hx, Xfer.isSend] at hsend
    all_goals rfl
  revert i
  simp [nonAckPackets, actsOn, hc, hrecv]

/-- SAW and GBN restart the wait on what they ignore (R144). -/
theorem waitRestarts_of_sawOrGbn {s : State} (hc : s.connState = .established)
    (hx : s.xfer = .sendSaw ∨ s.xfer = .sendGbn) : waitRestarts s = true := by
  obtain hx | hx := hx <;> rw [waitRestarts, hc, hx] <;> rfl

/-- SR does not (R144, R208). -/
theorem waitRestarts_of_sendSr {s : State} (hc : s.connState = .established)
    (hx : s.xfer = .sendSr) : waitRestarts s = false := by
  rw [waitRestarts, hc, hx]; rfl

section
variable {s : State} {p : Packet}

/-- SAW and GBN ignore an ACK that does not name the end of the oldest entry (R197, R202). -/
theorem ackInSaw_ackInGbn_of_no_match
    (h : ∀ k e rest, s.sndBuf = (k, e) :: rest → p.ack.toNat ≠ k + e.len.toNat) :
    ackInSaw p s = ignorePacket s ∧ ackInGbn p s = ignorePacket s := by
  rw [ackInSaw, ackInGbn]
  cases hbuf : s.sndBuf with
  | nil => exact ⟨rfl, rfl⟩
  | cons c rest =>
    have hmiss := h c.1 c.2 rest hbuf
    exact ⟨if_neg hmiss, if_neg hmiss⟩

/-- An ACK that names no entry of SNDBUF is ignored by SR (R208). -/
theorem ackInSr_of_miss
    (h : srAcked s p.ack = none ∨ ∃ k, srAcked s p.ack = some k ∧ hasKey k s.sndBuf = false) :
    ackInSr p s = ignorePacket s := by
  obtain hnone | ⟨k, hsome, hkey⟩ := h
  · rw [ackInSr, hnone]
  · simp only [ackInSr, hsome, hkey, Bool.false_eq_true, if_false]

end

/-- Settles O37: neither engine acts on the other classes, and the match test fails. -/
theorem sawAndGbnIgnoreOtherPackets : Obligations.SawAndGbnIgnoreOtherPackets := by
  unfold Obligations.SawAndGbnIgnoreOtherPackets
  intro s p hsock hc hx
  have hwait := waitRestarts_of_sawOrGbn hc hx
  have hsending : Sending s := ⟨hc, by obtain hx | hx := hx <;> rw [hx] <;> rfl⟩
  refine ⟨fun i hi => ?_, fun hmiss => ?_⟩
  · exact exec_restarts_wait (rxReady_of_sending hsock hsending) hwait
      (not_actsOn_of_sending hsending hi)
  · obtain ⟨hsaw, hgbn⟩ := ackInSaw_ackInGbn_of_no_match hmiss
    have hignored : exec (.pktAck p) s = .next (ignorePacket s) := by
      obtain hx | hx := hx
      · rw [exec_pktAck_of_sendSaw p hsock hc hx, hsaw]
      · rw [exec_pktAck_of_sendGbn p hsock hc hx, hgbn]
    rw [hignored, ignorePacket_eq, if_pos hwait]

/-- Settles O40: what SR ignores does not even restart the wait. -/
theorem srMissHasNoEffect : Obligations.SrMissHasNoEffect := by
  unfold Obligations.SrMissHasNoEffect
  intro s p hsock hc hx
  have hwait := waitRestarts_of_sendSr hc hx
  have hsending : Sending s := ⟨hc, by rw [hx]; rfl⟩
  refine ⟨fun i hi => ?_, fun hmiss => ?_⟩
  · exact exec_changes_nothing (rxReady_of_sending hsock hsending) hwait
      (not_actsOn_of_sending hsending hi)
  · rw [exec_pktAck_of_sendSr p hsock hc hx, ackInSr_of_miss hmiss, ignorePacket_eq,
      if_neg (by rw [hwait]; decide)]

/-! ## Removing an entry and sending the next chunk (R193, R199) -/

/-- Deleting the oldest entry leaves the others. -/
theorem dropEntry_head {s : State} {k : Nat} {e : SndEntry} {rest : OffsetMap SndEntry}
    (hbuf : s.sndBuf = (k, e) :: rest) : dropEntry k s = { s with sndBuf := rest } := by
  rw [dropEntry, hbuf, eraseKey, if_pos rfl]

/-- In canonical form a deletion leaves the entries at other keys. -/
theorem dropEntry_of_wf {s : State} (hwf : OffsetMap.wf s.sndBuf) (k : Nat) :
    dropEntry k s = { s with sndBuf := s.sndBuf.filter (fun c => c.1 != k) } := by
  rw [dropEntry, eraseKey_eq_filter hwf]

/-- In canonical form the deletion of a key takes one entry away. -/
theorem length_filter_key {k : Nat} {m : OffsetMap SndEntry} (hwf : OffsetMap.wf m)
    (hkey : hasKey k m = true) : (m.filter (fun c => c.1 != k)).length + 1 = m.length := by
  obtain ⟨v, hv⟩ := Option.isSome_iff_exists.1 hkey
  rw [← eraseKey_eq_filter hwf, length_eraseKey hv]

theorem beginTeardown_eq (s : State) : beginTeardown s = closingAfter s := rfl

section
variable {s : State}

/-- `SendChunk()` behind entries below NXT appends the chunk's entry (R193). -/
theorem sendChunk_eq_chunkAfter (hnxt : s.nxt.toNat ≤ s.txLen.toNat)
    (hbelow : ∀ c ∈ s.sndBuf, c.1 < s.nxt.toNat) : sendChunk s = chunkAfter s s.sndBuf := by
  have hnext : s.nxt + BitVec.ofNat 32 (chunkLen s s.nxt.toNat) =
      BitVec.ofNat 32 (min s.txLen.toNat (s.nxt.toNat + s.cfgMps.toNat)) := by
    rw [← sendChunk_nxt s hnxt, BitVec.ofNat_toNat, BitVec.setWidth_eq]
    rfl
  rw [sendChunk_eq, chunkAfter, hnext, insertKey_append hbelow]
  rfl

/-- `FillWindow()` stops at once when the window is full. -/
theorem fillRounds_of_full (f : Nat) (hfull : s.cfgWin.toNat ≤ s.sndBuf.length) :
    fillRounds f s = s := by
  cases f with
  | zero => rfl
  | succ f => exact if_neg fun h => absurd h.1 (by omega)

/-- `FillWindow()` sends nothing when every byte is sent. -/
theorem fillWindow_of_all_sent (h : s.nxt = s.txLen) : fillWindow s = s := by
  rw [fillWindow, h, Nat.sub_self, fillRounds]

/-- With one slot free and bytes unsent, `FillWindow()` sends exactly one chunk. -/
theorem fillWindow_of_one_slot (hslot : s.sndBuf.length + 1 = s.cfgWin.toNat)
    (hunsent : s.nxt.toNat < s.txLen.toNat) (hbelow : ∀ c ∈ s.sndBuf, c.1 < s.nxt.toNat) :
    fillWindow s = chunkAfter s s.sndBuf := by
  have hfull : (chunkAfter s s.sndBuf).cfgWin.toNat ≤ (chunkAfter s s.sndBuf).sndBuf.length := by
    simp [chunkAfter, hslot]
  obtain ⟨f, hf⟩ := Nat.exists_eq_add_one_of_ne_zero (Nat.sub_ne_zero_of_lt hunsent)
  rw [fillWindow, hf, fillRounds, if_pos ⟨by omega, hunsent⟩,
    sendChunk_eq_chunkAfter hunsent.le hbelow, fillRounds_of_full f hfull]

end

/-! ## After a removal (R201, R206) -/

/-- GBN goes on after a removal as SR does after the removal of the head. -/
theorem gbnAdvance_eq_srAdvance (s : State) : gbnAdvance s = srAdvance true s := rfl

section
variable {s : State} {rest : OffsetMap SndEntry} (wasHead : Bool)

/-- Bytes are unsent and the removal freed one slot: the next chunk is sent. -/
theorem srAdvance_of_unsent (hslot : rest.length + 1 = s.cfgWin.toNat)
    (hunsent : s.nxt.toNat < s.txLen.toNat) (hbelow : ∀ c ∈ rest, c.1 < s.nxt.toNat) :
    srAdvance wasHead { s with sndBuf := rest } =
      if wasHead then arm (chunkAfter s rest) else chunkAfter s rest := by
  have hfill : fillWindow { s with sndBuf := rest } = chunkAfter s rest :=
    fillWindow_of_one_slot (s := { s with sndBuf := rest }) hslot hunsent hbelow
  have hnotDone : sendDone (chunkAfter s rest) = false := by simp [sendDone, chunkAfter]
  rw [srAdvance, hfill, hnotDone]
  rfl

/-- Every byte is sent and entries are left: the sender waits on. -/
theorem srAdvance_of_all_sent (hsent : s.nxt = s.txLen) (hleft : rest ≠ []) :
    srAdvance wasHead { s with sndBuf := rest } =
      if wasHead then arm { s with sndBuf := rest } else { s with sndBuf := rest } := by
  have hnotDone : sendDone { s with sndBuf := rest } = false := by simp [sendDone, hleft]
  rw [srAdvance, fillWindow_of_all_sent (s := { s with sndBuf := rest }) hsent, hnotDone]
  rfl

/-- Every byte is sent and acknowledged: teardown begins. -/
theorem srAdvance_of_done (hsent : s.nxt = s.txLen) (hnone : rest = []) :
    srAdvance wasHead { s with sndBuf := rest } = closingAfter { s with sndBuf := [] } := by
  have hdone : sendDone { s with sndBuf := [] } = true := by simp [sendDone, hsent]
  rw [hnone, srAdvance, fillWindow_of_all_sent (s := { s with sndBuf := [] }) hsent]
  exact if_pos hdone

end

/-! ## The matching ACK (R196, R201, R206) -/

section
variable {s : State} {p : Packet} {k : Nat} {e : SndEntry} {rest : OffsetMap SndEntry}

theorem ackInSaw_of_match (hbuf : s.sndBuf = (k, e) :: rest)
    (hack : p.ack.toNat = k + e.len.toNat) :
    ackInSaw p s = sawAdvance { s with sndBuf := rest } := by
  simp only [ackInSaw, hbuf, hack, if_true, dropEntry_head hbuf]

theorem ackInGbn_of_match (hbuf : s.sndBuf = (k, e) :: rest)
    (hack : p.ack.toNat = k + e.len.toNat) :
    ackInGbn p s = srAdvance true { s with sndBuf := rest } := by
  simp only [ackInGbn, hbuf, hack, if_true, dropEntry_head hbuf, gbnAdvance_eq_srAdvance]

theorem ackInSr_of_hit {h : Nat} (hbuf : s.sndBuf = (h, e) :: rest) (hwf : OffsetMap.wf s.sndBuf)
    (hacked : srAcked s p.ack = some k) (hkey : hasKey k s.sndBuf = true) :
    ackInSr p s =
      srAdvance (k == h) { s with sndBuf := s.sndBuf.filter (fun c => c.1 != k) } := by
  have hhead : isHead k s.sndBuf = (k == h) := by rw [hbuf, isHead]
  simp only [ackInSr, hacked, hkey, if_true, hhead, dropEntry_of_wf hwf]

end

/-- Settles O35: the one entry goes, and `sawAdvance` asks whether bytes are unsent. -/
theorem sawMatchingAckAdvances : Obligations.SawMatchingAckAdvances := by
  unfold Obligations.SawMatchingAckAdvances
  intro s p k e hsock hc hx hbuf hack
  rw [exec_pktAck_of_sendSaw p hsock hc hx, ackInSaw_of_match hbuf hack, sawAdvance]
  refine ⟨fun hunsent => ?_, fun hsent => ?_⟩
  · rw [if_pos hunsent, sendChunk_eq_chunkAfter (s := { s with sndBuf := [] })
      (Nat.le_of_lt hunsent) (by simp)]
    rfl
  · rw [if_neg hsent, beginTeardown_eq]

/-- Bytes are unsent when NXT is not at TX_LEN. -/
theorem nxt_lt_txLen {s : State} (hnxt : s.nxt.toNat ≤ s.txLen.toNat) (h : s.nxt ≠ s.txLen) :
    s.nxt.toNat < s.txLen.toNat :=
  hnxt.lt_of_ne fun heq => h (BitVec.eq_of_toNat_eq heq)

/-- Settles O36: the window was full, so the removal frees exactly one slot. -/
theorem gbnMatchingAckAdvances : Obligations.GbnMatchingAckAdvances := by
  unfold Obligations.GbnMatchingAckAdvances
  intro s p m e rest hsock hc hx hbuf hack hnxt hbelow _ hfull
  rw [exec_pktAck_of_sendGbn p hsock hc hx, ackInGbn_of_match hbuf hack]
  refine ⟨fun hunsent => ?unsent, fun hsent hleft => ?allSent, fun hsent hnone => ?done⟩
  case unsent =>
    rw [srAdvance_of_unsent true (hfull.resolve_right hunsent) (nxt_lt_txLen hnxt hunsent) hbelow]
    rfl
  case allSent =>
    rw [srAdvance_of_all_sent true hsent hleft]
    rfl
  case done => rw [srAdvance_of_done true hsent hnone]

/-- Settles O39: as in GBN the removal frees one slot; the timer asks whether the removed entry was
the head. -/
theorem srHitRemovesItsEntry : Obligations.SrHitRemovesItsEntry := by
  unfold Obligations.SrHitRemovesItsEntry
  intro s p k h eh tl rest hsock hc hx hbuf hwf hacked hkey hrest hnxt hbelow _ hfull
  have hslot : s.nxt ≠ s.txLen → rest.length + 1 = s.cfgWin.toNat := fun hunsent => by
    rw [hrest, length_filter_key hwf hkey, hfull.resolve_right hunsent]
  have hbelow' : ∀ c ∈ rest, c.1 < s.nxt.toNat := fun c hmem =>
    hbelow c (List.mem_of_mem_filter (hrest ▸ hmem))
  rw [exec_pktAck_of_sendSr p hsock hc hx, ackInSr_of_hit hbuf hwf hacked hkey, ← hrest]
  have hadvance := fun hunsent =>
    srAdvance_of_unsent (k == h) (hslot hunsent) (nxt_lt_txLen hnxt hunsent) hbelow'
  refine ⟨fun hunsent hhead => ?unsentHead, fun hunsent hother => ?unsentOther,
    fun hsent hleft hhead => ?allSentHead, fun hsent hleft hother => ?allSentOther,
    fun hsent hnone => ?done⟩
  case unsentHead =>
    rw [hadvance hunsent, if_pos (beq_iff_eq.2 hhead)]
    rfl
  case unsentOther =>
    rw [hadvance hunsent, if_neg (mt beq_iff_eq.1 hother)]
  case allSentHead =>
    rw [srAdvance_of_all_sent _ hsent hleft, if_pos (beq_iff_eq.2 hhead)]
    rfl
  case allSentOther =>
    rw [srAdvance_of_all_sent _ hsent hleft, if_neg (mt beq_iff_eq.1 hother)]
  case done => rw [srAdvance_of_done _ hsent hnone]

/-! ## The timer's expiry in a sender (R198, R203, R209) -/

section
variable {s : State}

/-- SAW and SR resend the oldest entry. -/
theorem expire_of_sawOrSr (hc : s.connState = .established)
    (hx : s.xfer = .sendSaw ∨ s.xfer = .sendSr) : expire s = arm (retransmitHead s) := by
  obtain hx | hx := hx <;> rw [expire, hc, hx] <;> rfl

/-- GBN resends every entry. -/
theorem expire_of_sendGbn (hc : s.connState = .established) (hx : s.xfer = .sendGbn) :
    expire s = arm (retransmitAll s.sndBuf s) := by
  rw [expire, hc, hx]; rfl

theorem retransmitHead_of_cons {k : Nat} {e : SndEntry} {tl : OffsetMap SndEntry}
    (hbuf : s.sndBuf = (k, e) :: tl) : retransmitHead s = retransmit k e s := by
  rw [retransmitHead, hbuf]

end

/-- Settles O49: the tick runs `Expire()`, which resends behind the timeout's hook record. -/
theorem expiryInSenderResends : Obligations.ExpiryInSenderResends := by
  unfold Obligations.ExpiryInSenderResends
  intro s rest hin harmed htmr hc
  rw [step_tick_expire hin harmed htmr]
  refine ⟨fun hx k e tl hbuf => ?sawOrSr, fun hx => ?gbn⟩
  case sawOrSr =>
    rw [expire_of_sawOrSr (s := timedOut s rest) hc hx,
      retransmitHead_of_cons (s := timedOut s rest) hbuf]
    simp only [arm, retransmit, pushHook, emit, timedOut, hc, harmed]
    rfl
  case gbn =>
    rw [expire_of_sendGbn (s := timedOut s rest) hc hx, retransmitAll_eq]
    simp only [arm, timedOut, hc, hx, harmed]
    rfl

end Sys2Proof.Machine
end

section
/-! SUPPORT. The receiver engine (spec/43_receiver.md R230 to R240): the start of RECV, the three
branches of a data packet, the moves of `Merge()`, and the delivery on the FIN. -/

namespace Sys2Proof.Machine

/-! ## RECV (R230) -/

/-- RECV has no RANGE check: not busy, ESTABLISHED and configured, it starts the receiver. -/
theorem runCmd_recv {s : State} (x : Xfer) (hidle : busy s = false)
    (hc : s.connState = .established) (hvalid : s.cfgValid = true) :
    runCmd (recvCheck s) (beginRecv x) s = beginRecv x { s with code := .ok } :=
  runCmd_accepted _ (.inl hidle) (by simp [recvCheck, hc]) hvalid rfl

/-- Settles O41: the three rows differ in the engine they start. -/
theorem recvStartsReceiver : Obligations.RecvStartsReceiver := by
  unfold Obligations.RecvStartsReceiver
  intro s hidle hc hvalid i x hrow
  have hstarts : exec i s = .next (beginRecv x { s with code := .ok }) := by
    rw [← runCmd_recv x hidle hc hvalid]
    simp only [List.mem_cons, Prod.mk.injEq, List.not_mem_nil, or_false] at hrow
    obtain ⟨rfl, rfl⟩ | ⟨rfl, rfl⟩ | ⟨rfl, rfl⟩ := hrow <;> rfl
  exact hstarts

/-! ## The branches of a data packet (R231) -/

/-- `RECV_x` as the statements list it. -/
theorem receiving_of_mem {s : State} (hc : s.connState = .established)
    (hx : s.xfer ∈ [Xfer.recvSaw, .recvGbn, .recvSr]) : Receiving s := by
  simp only [List.mem_cons, List.not_mem_nil, or_false] at hx
  obtain hx | hx | hx := hx <;> exact ⟨hc, by rw [hx]; rfl⟩

section
variable {s : State} {p : Packet}

/-- A packet of class ACK or NONE is data for a receiver when it has a payload. -/
theorem exec_data {i : Instr} (hsock : s.sockOpen = true) (hrecv : Receiving s)
    (hp : p.payload ≠ []) (hi : i = .pktAck p ∨ i = .pktNone p) :
    exec i s = .next (dataInRecv p s) := by
  have hready := (receiving_ready hsock hrecv).1
  obtain ⟨hc, hx⟩ := hrecv
  have hdata : ackOrNoneInRecv p s = dataInRecv p s := if_neg hp
  obtain rfl | rfl := hi
  · have hack : ackInEstablished p s = ackOrNoneInRecv p s := by
      rw [ackInEstablished]
      cases hxfer : s.xfer
      case recvSaw | recvGbn | recvSr => rfl
      all_goals simp [hxfer, Xfer.isRecv] at hx
    rw [exec, execPktAck, whenReady_of_ready _ hready, onAck, hc, hack, hdata]
  · rw [exec, execPktNone, whenReady_of_ready _ hready, onNone, hc, if_pos hx, hdata]

theorem dataInRecv_of_eq (h : p.seq = s.exp) : dataInRecv p s = dataInOrder p s := if_pos h

theorem dataInRecv_of_gt (h : s.exp < p.seq) :
    dataInRecv p s = if buffersOoo s then dataBuffered p s else s := by
  rw [dataInRecv, if_neg (BitVec.ne_of_lt h).symm, if_pos h]

theorem dataInRecv_of_lt (h : p.seq < s.exp) : dataInRecv p s = dataDuplicate p s := by
  rw [dataInRecv, if_neg (BitVec.ne_of_lt h), if_neg (BitVec.lt_asymm h)]

theorem fitsRx_of_le (h : rxBytes s + p.payload.length ≤ s.params.rxCap) : fitsRx p s = true :=
  decide_eq_true h

theorem fitsRx_of_lt (h : s.params.rxCap < rxBytes s + p.payload.length) : fitsRx p s = false :=
  decide_eq_false (Nat.not_le.2 h)

theorem buffersOoo_of_buffer (hx : s.xfer = .recvSr) (hpol : s.params.oooPolicy = .buffer) :
    buffersOoo s = true := by
  rw [buffersOoo, hx, hpol]; rfl

theorem buffersOoo_of_not (h : s.xfer ≠ .recvSr ∨ s.params.oooPolicy = .discard) :
    buffersOoo s = false := by
  obtain h | h := h <;> simp [buffersOoo, h]

end

/-! ## In order (R232, R238) -/

section
variable {s : State} {p : Packet}

/-- A packet at EXP that fits is stored, and EXP advances by its length. -/
def storedAtExp (p : Packet) (s : State) : State :=
  { s with
    rxBuf := insertKey p.seq.toNat p.payload s.rxBuf
    exp := s.exp + BitVec.ofNat 32 p.payload.length }

/-- A packet at EXP that fits is stored, merged behind under SR with policy BUFFER, and
acknowledged. -/
theorem dataInOrder_of_fits (hfits : fitsRx p s = true) :
    dataInOrder p s =
      let t := if buffersOoo s then merge (storedAtExp p s) else storedAtExp p s
      ackAfter t (if t.xfer = .recvSr then packetEnd p else t.exp) := if_pos hfits

/-- Where nothing is merged, the packet's end is the new EXP. -/
theorem dataInOrder_of_not_buffering (hfits : fitsRx p s = true) (hseq : p.seq = s.exp)
    (hnone : buffersOoo s = false) :
    dataInOrder p s = ackAfter (storedAtExp p s) (s.exp + BitVec.ofNat 32 p.payload.length) := by
  have hend : packetEnd p = (storedAtExp p s).exp := by rw [packetEnd, hseq]; rfl
  simp only [dataInOrder_of_fits hfits, hnone, Bool.false_eq_true, if_false, hend, ite_self]
  rfl

/-- SR under policy BUFFER acknowledges the packet's own end, whatever the merge makes of EXP. -/
theorem dataInOrder_of_buffering (hfits : fitsRx p s = true) (hx : s.xfer = .recvSr)
    (hbuffers : buffersOoo s = true) :
    dataInOrder p s = ackAfter (merge (storedAtExp p s)) (packetEnd p) := by
  obtain ⟨o, r, e, hmerge⟩ := merge_frame (storedAtExp p s)
  have hsr : (merge (storedAtExp p s)).xfer = .recvSr := by rw [hmerge]; exact hx
  simp only [dataInOrder_of_fits hfits, hbuffers, if_true, hsr]

theorem dataInOrder_of_not_fits (hfits : fitsRx p s = false) :
    dataInOrder p s = { s with rxOvf := true } := if_neg (by rw [hfits]; decide)

end

/-- Settles O42: the store is one insertion, and only SR under policy BUFFER merges behind it. -/
theorem inOrderDataIsStoredAndAcknowledged : Obligations.InOrderDataIsStoredAndAcknowledged := by
  unfold Obligations.InOrderDataIsStoredAndAcknowledged
  intro s p hsock hc hx hp hseq i hi
  rw [exec_data hsock (receiving_of_mem hc hx) hp hi, dataInRecv_of_eq hseq]
  refine ⟨fun hfits => ⟨insertKey p.seq.toNat p.payload s.rxBuf,
    fun k => lookupKey_insertKey _ _ _ _, fun hnot => ?unmerged, fun hsr hpol => ?merged⟩,
    fun hfull => ?refused⟩
  case unmerged =>
    rw [dataInOrder_of_not_buffering (fitsRx_of_le hfits) hseq (buffersOoo_of_not hnot)]
    rfl
  case merged =>
    rw [dataInOrder_of_buffering (fitsRx_of_le hfits) hsr (buffersOoo_of_buffer hsr hpol)]
    rfl
  case refused => rw [dataInOrder_of_not_fits (fitsRx_of_lt hfull)]

/-! ## Above EXP (R234, R235) -/

section
variable {s : State} {p : Packet}

theorem dataBuffered_of_key (hkey : hasKey p.seq.toNat s.ooo = true) :
    dataBuffered p s = ackAfter s (packetEnd p) := if_pos hkey

theorem dataBuffered_of_room (hkey : hasKey p.seq.toNat s.ooo = false)
    (hslot : s.ooo.length < s.params.oooSlots) (hfits : fitsRx p s = true) :
    dataBuffered p s =
      ackAfter { s with ooo := insertKey p.seq.toNat p.payload s.ooo } (packetEnd p) := by
  rw [dataBuffered, if_neg (by rw [hkey]; decide), if_pos ⟨hslot, hfits⟩]
  rfl

theorem dataBuffered_of_no_room (hkey : hasKey p.seq.toNat s.ooo = false)
    (hfull : ¬ (s.ooo.length < s.params.oooSlots ∧ fitsRx p s = true)) :
    dataBuffered p s = s := by
  rw [dataBuffered, if_neg (by rw [hkey]; decide), if_neg hfull]

end

/-- Settles O44: what does not buffer discards, and what buffers asks for the key, a slot and
room. -/
theorem outOfOrderData : Obligations.OutOfOrderData := by
  unfold Obligations.OutOfOrderData
  intro s p hsock hc hp habove i hi
  have hexec : s.xfer ∈ [Xfer.recvSaw, .recvGbn, .recvSr] →
      exec i s = .next (if buffersOoo s then dataBuffered p s else s) := fun hx => by
    rw [exec_data hsock (receiving_of_mem hc hx) hp hi, dataInRecv_of_gt habove]
  refine ⟨?discarded, fun hsr hpol => ?_⟩
  case discarded =>
    intro h
    have hmem : s.xfer ∈ [Xfer.recvSaw, .recvGbn, .recvSr] := by
      simp only [List.mem_cons, List.not_mem_nil, or_false] at h ⊢
      tauto
    have hnone : buffersOoo s = false :=
      buffersOoo_of_not (h.imp (fun hx hsr => by simp [hsr] at hx) And.right)
    rw [hexec hmem, hnone]
    rfl
  rw [hexec (by rw [hsr]; decide), if_pos (buffersOoo_of_buffer hsr hpol)]
  refine ⟨fun hkey => ?known, fun hkey => ⟨fun ⟨hslot, hfits⟩ => ?room, fun hfull => ?noRoom⟩⟩
  case known => exact congrArg _ (dataBuffered_of_key hkey)
  case room =>
    exact ⟨_, congrArg _ (dataBuffered_of_room hkey hslot (fitsRx_of_le hfits)),
      fun k => lookupKey_insertKey _ _ _ _⟩
  case noRoom =>
    refine congrArg _ (dataBuffered_of_no_room hkey fun ⟨hslot, hfits⟩ => ?_)
    obtain hslots | hcap := hfull
    · omega
    · rw [fitsRx_of_lt hcap] at hfits
      cases hfits

/-! ## Below EXP (R236, R237) -/

section
variable {s : State} {p : Packet}

theorem dataDuplicate_of_key (hkey : hasKey p.seq.toNat s.rxBuf = true) :
    dataDuplicate p s = ackAfter s (packetEnd p) := if_pos hkey

theorem dataDuplicate_of_fits (hkey : hasKey p.seq.toNat s.rxBuf = false)
    (hfits : fitsRx p s = true) :
    dataDuplicate p s = ackAfter (storeRx p s) (packetEnd p) := by
  rw [dataDuplicate, if_neg (by rw [hkey]; decide), if_pos hfits]
  rfl

theorem dataDuplicate_of_not_fits (hkey : hasKey p.seq.toNat s.rxBuf = false)
    (hfits : fitsRx p s = false) :
    dataDuplicate p s = ackAfter { s with rxOvf := true } (packetEnd p) := by
  rw [dataDuplicate, if_neg (by rw [hkey]; decide), if_neg (by rw [hfits]; decide)]
  rfl

end

/-- Settles O45: every branch acknowledges; only an unrecorded offset asks for room. -/
theorem duplicateDataIsAcknowledged : Obligations.DuplicateDataIsAcknowledged := by
  unfold Obligations.DuplicateDataIsAcknowledged
  intro s p hsock hc hx hp hbelow i hi
  rw [exec_data hsock (receiving_of_mem hc hx) hp hi, dataInRecv_of_lt hbelow]
  refine ⟨fun hkey => ?recorded, fun hkey => ⟨fun hfits => ?stored, fun hfull => ?refused⟩⟩
  case recorded => exact congrArg _ (dataDuplicate_of_key hkey)
  case stored =>
    exact ⟨_, congrArg _ (dataDuplicate_of_fits hkey (fitsRx_of_le hfits)),
      fun k => lookupKey_insertKey _ _ _ _⟩
  case refused => exact congrArg _ (dataDuplicate_of_not_fits hkey (fitsRx_of_lt hfull))

/-! ## Merge (R233) -/

/-- One move of `Merge()`: the entry `q` at EXP goes from OOO to RXBUF. -/
def moveEntry (q : List Byte) (s : State) : State :=
  { s with
    ooo := eraseKey s.exp.toNat s.ooo
    rxBuf := insertKey s.exp.toNat q s.rxBuf
    exp := s.exp + BitVec.ofNat 32 q.length }

@[simp] theorem moveEntry_ooo (q : List Byte) (s : State) :
    (moveEntry q s).ooo = eraseKey s.exp.toNat s.ooo := rfl

@[simp] theorem moveEntry_rxBuf (q : List Byte) (s : State) :
    (moveEntry q s).rxBuf = insertKey s.exp.toNat q s.rxBuf := rfl

section
variable {s u : State} {q : List Byte}

/-- While EXP is a key of OOO, `Merge()` moves its entry and goes on. -/
theorem merge_of_adjoining (hq : lookupKey s.exp.toNat s.ooo = some q) :
    merge s = merge (moveEntry q s) := by
  rw [merge, ← length_eraseKey hq, mergeRounds, hq]
  rfl

/-- When EXP is no key of OOO, only the stale entries go. -/
theorem merge_of_not_adjoining (hnone : lookupKey s.exp.toNat s.ooo = none) :
    merge s = dropStale s := by
  have hstop : mergeRounds s.ooo.length s = s := by
    cases s.ooo.length with
    | zero => rfl
    | succ n => rw [mergeRounds, hnone]
  rw [merge, hstop]

/-- What the moves of `Merge()` from `s` keep of the state `u` they have reached: the premises of
the next move, and the account of what has gone from OOO to RXBUF since `s`. -/
structure MergedFrom (s u : State) : Prop where
  oooWf : OffsetMap.wf u.ooo
  notEmpty : ∀ k p, (k, p) ∈ u.ooo → p ≠ []
  stored : ∀ k p, lookupKey k u.rxBuf = some p → k < u.exp.toNat
  noWrap : u.exp.toNat + mapBytes u.ooo < 2 ^ 32
  left : ∀ c ∈ u.ooo, c ∈ s.ooo
  ahead : ∀ c ∈ s.ooo, u.exp.toNat ≤ c.1 → c ∈ u.ooo
  advanced : s.exp.toNat ≤ u.exp.toNat
  gained : u.exp.toNat + mapBytes s.rxBuf = s.exp.toNat + mapBytes u.rxBuf
  kept : ∀ k p, lookupKey k s.rxBuf = some p → lookupKey k u.rxBuf = some p
  moved : ∀ k p, lookupKey k u.rxBuf = some p →
    lookupKey k s.rxBuf = some p ∨ (k, p) ∈ s.ooo ∧ s.exp.toNat ≤ k ∧ k < u.exp.toNat

/-- EXP does not wrap in a move: the bytes of the entry are among those of OOO. -/
theorem moveEntry_exp (hq : lookupKey u.exp.toNat u.ooo = some q)
    (hwrap : u.exp.toNat + mapBytes u.ooo < 2 ^ 32) :
    (moveEntry q u).exp.toNat = u.exp.toNat + q.length := by
  have := mapBytes_eraseKey hq
  simp only [moveEntry, BitVec.toNat_add, BitVec.toNat_ofNat]
  omega

/-- The entry moved is above every key of RXBUF, so the move replaces none, and EXP passes it. -/
theorem MergedFrom.move (h : MergedFrom s u) (hq : lookupKey u.exp.toNat u.ooo = some q) :
    MergedFrom s (moveEntry q u) := by
  have hexp := moveEntry_exp hq h.noWrap
  have hpos : 0 < q.length := List.length_pos_of_ne_nil (h.notEmpty _ _ (lookupKey_mem hq))
  have hbytes := mapBytes_eraseKey hq
  have hnew : lookupKey u.exp.toNat u.rxBuf = none :=
    Option.eq_none_iff_forall_ne_some.2 fun p hp => absurd (h.stored _ p hp) (lt_irrefl _)
  have hadvanced := h.advanced
  constructor
  case oooWf => exact eraseKey_wf h.oooWf
  case notEmpty => exact fun k p hmem => h.notEmpty k p (mem_eraseKey hmem)
  case stored =>
    intro k p hp
    rw [moveEntry_rxBuf, lookupKey_insertKey] at hp
    split at hp
    · omega
    · have := h.stored k p hp
      omega
  case noWrap =>
    have hwrap := h.noWrap
    rw [hexp, moveEntry_ooo]
    omega
  case left => exact fun c hmem => h.left c (mem_eraseKey hmem)
  case ahead =>
    intro c hmem hle
    rw [moveEntry_ooo, eraseKey_eq_filter h.oooWf, List.mem_filter, bne_iff_ne]
    exact ⟨h.ahead c hmem (by omega), by omega⟩
  case advanced => omega
  case gained =>
    have hgained := h.gained
    rw [hexp, moveEntry_rxBuf, mapBytes_insertKey (by rw [hasKey, hnew]; rfl)]
    omega
  case kept =>
    intro k p hp
    have hp := h.kept k p hp
    have hne : k ≠ u.exp.toNat := (h.stored k p hp).ne
    rw [moveEntry_rxBuf, lookupKey_insertKey, if_neg hne, hp]
  case moved =>
    intro k p hp
    rw [moveEntry_rxBuf, lookupKey_insertKey] at hp
    split at hp
    case isTrue hk =>
      cases hp
      rw [hk]
      exact .inr ⟨h.left _ (lookupKey_mem hq), hadvanced, by omega⟩
    case isFalse =>
      obtain hold | ⟨hmem, hle, hlt⟩ := h.moved k p hp
      · exact .inl hold
      · exact .inr ⟨hmem, hle, by omega⟩

/-- The moves of `Merge()`, all together. -/
theorem mergedFrom_mergeRounds (f : Nat) (hwf : OffsetMap.wf s.ooo)
    (hne : ∀ k p, (k, p) ∈ s.ooo → p ≠ []) (hstored : ∀ k p, (k, p) ∈ s.rxBuf → k < s.exp.toNat)
    (hwrap : s.exp.toNat + mapBytes s.ooo < 2 ^ 32) : MergedFrom s (mergeRounds f s) := by
  refine mergeRounds_keeps f s (fun u q hq h => h.move hq) ?start
  exact {
    oooWf := hwf
    notEmpty := hne
    stored := fun k p hp => hstored k p (lookupKey_mem hp)
    noWrap := hwrap
    left := fun _ hmem => hmem
    ahead := fun _ hmem _ => hmem
    advanced := le_rfl
    gained := rfl
    kept := fun _ _ hp => hp
    moved := fun _ _ hp => .inl hp }

/-- After the moves EXP is no key of OOO, so what `dropStale` leaves is above EXP. -/
theorem mem_merge_ooo (h : MergedFrom s (mergeRounds s.ooo.length s)) (k : Nat) (p : List Byte) :
    (k, p) ∈ (merge s).ooo ↔ (k, p) ∈ s.ooo ∧ (merge s).exp.toNat < k := by
  have hdrained := mergeRounds_drained s.ooo.length s le_rfl
  rw [merge, dropStale, List.mem_filter, decide_eq_true_eq]
  refine ⟨fun ⟨hmem, hle⟩ => ⟨h.left _ hmem, hle.lt_of_ne fun heq => ?_⟩,
    fun ⟨hmem, hlt⟩ => ⟨h.ahead _ hmem hlt.le, hlt.le⟩⟩
  rw [heq, mem_lookupKey h.oooWf hmem] at hdrained
  cases hdrained

end

/-- Settles O43: one move, none, and all of them by the account the moves keep. -/
theorem mergeDrainsAdjoiningEntries : Obligations.MergeDrainsAdjoiningEntries := by
  unfold Obligations.MergeDrainsAdjoiningEntries
  refine ⟨fun s q hooo hrx hq => ?oneMove, fun s hnone => merge_of_not_adjoining hnone,
    fun s hwf hne hstored hwrap => ?allMoves⟩
  case oneMove =>
    exact ⟨eraseKey s.exp.toNat s.ooo, insertKey s.exp.toNat q s.rxBuf, eraseKey_wf hooo,
      insertKey_wf hrx, fun k => lookupKey_eraseKey hooo, fun k => lookupKey_insertKey _ _ _ _,
      merge_of_adjoining hq⟩
  case allMoves =>
    have h := mergedFrom_mergeRounds s.ooo.length hwf hne hstored hwrap
    obtain ⟨o, r, e, hframe⟩ := merge_frame s
    exact ⟨mem_merge_ooo h, h.advanced, h.gained, h.kept, h.moved, by rw [hframe]⟩

/-! ## FIN and delivery (R239, R240) -/

/-- A receiver completes on a FIN. -/
theorem exec_pktFin_of_receiving {s : State} (p : Packet) (hsock : s.sockOpen = true)
    (hrecv : Receiving s) : exec (.pktFin p) s = .next (finInRecv p s) := by
  have hready := (receiving_ready hsock hrecv).1
  obtain ⟨hc, hx⟩ := hrecv
  rw [exec, execPktFin, whenReady_of_ready _ hready, onFin, hc, if_pos hx]

/-- The delivered bytes are those of RXBUF, a part of RXBYTES (R41). -/
theorem length_flatten_rxBuf_le (s : State) : (flatten s.rxBuf).length ≤ rxBytes s := by
  rw [length_flatten]
  exact Nat.le_add_right _ _

/-- Settles O46: the FIN-ACK, the delivery from address 0 on, and the completion. -/
theorem finCompletesRecv : Obligations.FinCompletesRecv := by
  unfold Obligations.FinCompletesRecv
  intro s p hsock hc hx d c
  have hlen : d.length ≤ rxBytes s := length_flatten_rxBuf_le s
  refine ⟨writeBytes 0 d s.deliv, ?finished, fun a => ?delivered, hlen, hlen.trans⟩
  case finished =>
    rw [exec_pktFin_of_receiving p hsock (receiving_of_mem hc hx), finInRecv, finish_eq]
    rfl
  case delivered => simp [lookupKey_writeBytes]

end Sys2Proof.Machine
end

section
/-! SUPPORT. The exceptions (spec/60_exceptions.md R263): which datagrams the codec refuses, and the
step that drops one. -/

namespace Sys2Proof

theorem decodeWire_of_length_out_of_range {P : Params} {dg : List Byte}
    (h : dg.length < 12 ∨ P.dgramMax < dg.length) : decodeWire P dg = .error ⟨dg.length⟩ := by
  rw [decodeWire, deframe_of_length_out_of_range h]

/-- Past the length check a packet of any class decodes (R114, R93). -/
theorem decodeWire_of_length_in_range {P : Params} {dg : List Byte} (hmin : 12 ≤ dg.length)
    (hmax : dg.length ≤ P.dgramMax) :
    decodeWire P dg = .ok (wireInstr (readHdr dg) (dg.drop 12)) := by
  rw [decodeWire, deframe_of_length_in_range hmin hmax]

/-- The codec refuses by length alone (R114). -/
theorem decodeWire_error_iff (P : Params) (dg : List Byte) :
    (∃ e, decodeWire P dg = .error e) ↔ dg.length < 12 ∨ P.dgramMax < dg.length := by
  refine ⟨fun ⟨e, he⟩ => ?_, fun h => ⟨_, decodeWire_of_length_out_of_range h⟩⟩
  by_contra hlen
  rw [not_or, Nat.not_lt, Nat.not_lt] at hlen
  obtain ⟨hmin, hmax⟩ := hlen
  rw [decodeWire_of_length_in_range hmin hmax] at he
  cases he

end Sys2Proof

namespace Sys2Proof.Machine

/-- The drop leaves one hook record and otherwise acts as an ignored packet does (R263). -/
theorem dropMalformed_eq (n : Nat) (s : State) :
    dropMalformed n s = ignorePacket (pushHook (.framing n) s) := rfl

/-- The state after the drop where no wait restarts: the event is taken and the hook record of
length `n` is the only output. -/
def droppedState (n : Nat) (rest : List Event) (s : State) : State :=
  { s with inputs := rest, out := { StepOutput.none with hooks := [.framing n] } }

@[simp] theorem waitRestarts_droppedState (n : Nat) (rest : List Event) (s : State) :
    waitRestarts (droppedState n rest s) = waitRestarts s := rfl

/-- The step of a malformed datagram: the drop, and R144's rule for the wait (R263). -/
theorem step_of_malformed {s : State} {dg : List Byte} {src : Addr} {rest : List Event}
    (hin : s.inputs = .rx dg src :: rest) (hready : rxReady s = true) (hdg : dg.length ≤ 65535)
    (hlen : dg.length < 12 ∨ s.params.dgramMax < dg.length) :
    step s = .next (ignorePacket (droppedState dg.length rest s)) := by
  rw [step_of_inputs hin, eventStep,
    rxEvent_malformed (s := beginStep rest s) hready ((isDatagram_iff dg).2 hdg)
      (decodeWire_of_length_out_of_range hlen),
    dropMalformed_eq]
  rfl

/-- The states the statement lists first are those R144 lists. -/
theorem waitRestarts_of_listed {s : State}
    (h : s.connState ∈ [ConnState.listen, .synSent, .synReceived, .closing] ∨
      s.connState = .established ∧ s.xfer ∈ [Xfer.sendSaw, .sendGbn]) : waitRestarts s = true := by
  obtain hc | ⟨hc, hx⟩ := h
  · refine waitRestarts_of_waiting ?_
    simp only [Waiting, List.mem_cons, List.not_mem_nil, or_false] at hc ⊢
    tauto
  · exact waitRestarts_of_sawOrGbn hc (by simpa using hx)

/-- Linger, the SR sender and the receivers are not in R144's list. -/
theorem waitRestarts_of_not_listed {s : State}
    (h : s.connState = .closed ∨
      s.connState = .established ∧ s.xfer ∈ [Xfer.sendSr, .recvSaw, .recvGbn, .recvSr]) :
    waitRestarts s = false := by
  obtain hc | ⟨hc, hx⟩ := h
  · rw [waitRestarts, hc]
  · simp only [List.mem_cons, List.not_mem_nil, or_false] at hx
    obtain hx | hx | hx | hx := hx <;> rw [waitRestarts, hc, hx] <;> rfl

/-- Settles O11: the codec refuses by length alone, and the drop re-arms the timer by R144's rule. -/
theorem malformedDatagramIsDropped : Obligations.MalformedDatagramIsDropped := by
  unfold Obligations.MalformedDatagramIsDropped
  refine ⟨decodeWire_error_iff, fun s dg src rest hin hready hdg hlen => ?_⟩
  rw [step_of_malformed hin hready hdg hlen, ignorePacket_eq, waitRestarts_droppedState]
  refine ⟨fun h => ?rearmed, fun h => ?untouched⟩
  case rearmed => rw [if_pos (waitRestarts_of_listed h)]; rfl
  case untouched => rw [if_neg (by rw [waitRestarts_of_not_listed h]; decide)]; rfl

end Sys2Proof.Machine
end

section
/-! SUPPORT. The RESET event (spec/70_reset_and_hazards.md R300) in the layer of the machine's
step. -/

namespace Sys2Proof.Machine

/-- RESET reads nothing of the state it interrupts but the parameters, the instance's number, the
count of resets and what belongs to the environment (R300). -/
theorem step_reset {s : State} {rest : List Event} (hin : s.inputs = .reset :: rest) :
    step s = .next { State.reset with
      params := s.params
      unit := s.unit
      resets := s.resets + 1
      answer := s.answer
      rxSrc := s.rxSrc
      inputs := rest } := by
  rw [step_of_inputs hin, eventStep, resetEvent]
  simp only [beginStep_fields]

/-- Settles O50: the step ends in `State.reset` with six other fields, and R48's table is that
state's. -/
theorem resetClearsEverything : Obligations.ResetClearsEverything := by
  unfold Obligations.ResetClearsEverything
  intro s rest hin
  refine ⟨_, step_reset hin, rfl, rfl, ?_⟩
  and_intros <;> rfl

end Sys2Proof.Machine
end

section
/-! SUPPORT. The encodings (spec/30_encoding.md parts 1 and 2): what `decodeCmd` answers for each
word, which row of the opcode table a datagram is of, and that decoding and encoding undo each
other. -/

namespace Sys2Proof

/-! ## Command words (R80 to R84) -/

/-- The command rows of the opcode table, each command by its word. -/
def commandTable : List (Word × Instr) :=
  [(0x00000001, .configure), (0x00000002, .bind), (0x00000003, .listen), (0x00000004, .connect),
    (0x00000005, .sendSaw), (0x00000105, .sendGbn), (0x00000205, .sendSr), (0x00000006, .recvSaw),
    (0x00000106, .recvGbn), (0x00000206, .recvSr), (0x00000007, .close), (0x00000008, .wrtx),
    (0x00000009, .rdrx)]

/-- A word is its three fields (R80). -/
theorem word_of_fields (w : Word) : w = cmdReserved w ++ cmdProto w ++ cmdOpc w := by
  apply BitVec.eq_of_toNat_eq
  have := w.isLt
  simp only [cmdReserved, cmdProto, cmdOpc, toNat_packed, toNat_field]
  omega

/-- The opcodes of the map R81. -/
def usedOpcodes : List Byte := [0x01, 0x02, 0x03, 0x04, 0x05, 0x06, 0x07, 0x08, 0x09]

/-- What `decodeCmd` answers is right for the word: a command of the table, or a refusal that names
what is wrong with the word's fields (R81, R83, R84). -/
def CmdAnswer (w : Word) : Except CmdReject Instr → Prop
  | .ok i => (w, i) ∈ commandTable
  | .error (.reservedBits o) => cmdReserved w ≠ 0 ∧ o = cmdOpc w
  | .error (.reservedOpcode _) => cmdOpc w ∉ usedOpcodes
  | .error (.protoNotTaken o) => cmdProto w ≠ 0 ∧ o = cmdOpc w
  | .error (.protoReserved _) =>
    cmdReserved w = 0 ∧ cmdProto w = 3 ∧ (cmdOpc w = 0x05 ∨ cmdOpc w = 0x06)

section
variable {w : Word} {o : Byte} (hres : cmdReserved w = 0) (hopc : cmdOpc w = o)
include hres hopc

/-- The words of a command that takes no protocol. -/
theorem plainCmd_answer {i : Instr}
    (hrow : ((0 : BitVec 22) ++ (0 : BitVec 2) ++ o, i) ∈ commandTable) :
    CmdAnswer w (plainCmd o (cmdProto w) i) := by
  rw [plainCmd]
  split
  · next hproto =>
    rw [CmdAnswer, word_of_fields w, hres, hproto, hopc]
    exact hrow
  · next hproto => exact ⟨hproto, hopc.symm⟩

/-- The words of SEND and of RECV. -/
theorem protoCmd_answer {saw gbn sr : Instr} (ho : o = 0x05 ∨ o = 0x06)
    (hsaw : ((0 : BitVec 22) ++ (0 : BitVec 2) ++ o, saw) ∈ commandTable)
    (hgbn : ((0 : BitVec 22) ++ (1 : BitVec 2) ++ o, gbn) ∈ commandTable)
    (hsr : ((0 : BitVec 22) ++ (2 : BitVec 2) ++ o, sr) ∈ commandTable) :
    CmdAnswer w (protoCmd o (cmdProto w) saw gbn sr) := by
  have hword := word_of_fields w
  rw [hres, hopc] at hword
  generalize hproto : cmdProto w = x at hword ⊢
  have hx : ∀ y : BitVec 2, y = 0 ∨ y = 1 ∨ y = 2 ∨ y = 3 := by decide
  rcases hx x with rfl | rfl | rfl | rfl
  · exact hword ▸ hsaw
  · exact hword ▸ hgbn
  · exact hword ▸ hsr
  · exact ⟨hres, hproto, by rwa [hopc]⟩

end

/-- The opcode map, opcode by opcode. -/
theorem decodeCmd_answer (w : Word) : CmdAnswer w (decodeCmd w) := by
  simp only [decodeCmd]
  split
  · next hres => exact ⟨hres, rfl⟩
  next hres =>
  rw [not_not] at hres
  split
  · next h => exact h ▸ plainCmd_answer hres h (by decide)
  split
  · next h => exact h ▸ plainCmd_answer hres h (by decide)
  split
  · next h => exact h ▸ plainCmd_answer hres h (by decide)
  split
  · next h => exact h ▸ plainCmd_answer hres h (by decide)
  split
  · next h => exact h ▸ protoCmd_answer hres h (by decide) (by decide) (by decide) (by decide)
  split
  · next h => exact h ▸ protoCmd_answer hres h (by decide) (by decide) (by decide) (by decide)
  split
  · next h => exact h ▸ plainCmd_answer hres h (by decide)
  split
  · next h => exact h ▸ plainCmd_answer hres h (by decide)
  split
  · next h => exact h ▸ plainCmd_answer hres h (by decide)
  simp only [CmdAnswer, usedOpcodes, List.mem_cons, List.not_mem_nil, or_false, not_or]
  and_intros <;> assumption

/-- Each command decodes from its word. -/
theorem decodeCmd_of_mem_table {w : Word} {i : Instr} (h : (w, i) ∈ commandTable) :
    decodeCmd w = .ok i := by
  have hrows : ∀ r ∈ commandTable, decodeCmd r.1 = .ok r.2 := by decide
  exact hrows (w, i) h

/-- Settles O7: the table's words decode, and what decodes is in the table. -/
theorem commandWordsAreTheTable : Obligations.CommandWordsAreTheTable := by
  unfold Obligations.CommandWordsAreTheTable
  intro w i
  refine ⟨fun h => ?_, decodeCmd_of_mem_table⟩
  have hanswer := decodeCmd_answer w
  rw [h] at hanswer
  exact hanswer

/-! ## Wire packets (R93 to R96) -/

/-- The wire row of the three class bits SYN, ACK and FIN (R93). -/
def classRow : Bool → Bool → Bool → Packet → Instr
  | true, false, false => .pktSyn
  | true, true, false => .pktSynack
  | false, true, false => .pktAck
  | false, false, false => .pktNone
  | false, false, true => .pktFin
  | false, true, true => .pktFinack
  | true, false, true => .pktInvalidSynfin
  | true, true, true => .pktInvalidSynackfin

theorem wireInstr_eq_classRow (h : Header) (payload : List Byte) :
    wireInstr h payload = classRow h.syn h.ackf h.fin (packetOf h payload) := by
  rw [wireInstr, classify]
  cases h.syn <;> cases h.ackf <;> cases h.fin <;> rfl

theorem encode_classRow (syn ackf fin : Bool) (q : Packet) :
    encode (classRow syn ackf fin q) = .wire (q.datagram syn ackf fin) := by
  cases syn <;> cases ackf <;> cases fin <;> rfl

theorem wellFormed_classRow (P : Params) (syn ackf fin : Bool) (q : Packet) :
    (classRow syn ackf fin q).wellFormed P = q.fits P := by
  cases syn <;> cases ackf <;> cases fin <;> rfl

/-- A packet whose payload fits decodes from its datagram, whatever its other fields (R115). -/
theorem decode_datagram {P : Params} {q : Packet} (hfits : q.fits P = true) (syn ackf fin : Bool) :
    decode P (.wire (q.datagram syn ackf fin)) = .ok (classRow syn ackf fin q) := by
  have hdeframe : deframe P (q.datagram syn ackf fin) = .ok (q.header syn ackf fin, q.payload) :=
    deframeFrameRoundTrip.1 P _ _ (of_decide_eq_true hfits)
  rw [decode, decodeWire, hdeframe]
  exact congrArg _ (wireInstr_eq_classRow _ _)

/-- A datagram that decodes is the encoding of its packet, whose payload fits (R115, R117). -/
theorem encode_of_decodeWire {P : Params} {dg : List Byte} {i : Instr}
    (h : decodeWire P dg = .ok i) : encode i = .wire dg ∧ WellFormed P i := by
  have hlen : ¬ (dg.length < 12 ∨ P.dgramMax < dg.length) := fun hout => by
    rw [decodeWire_of_length_out_of_range hout] at h
    cases h
  rw [not_or, Nat.not_lt, Nat.not_lt] at hlen
  obtain ⟨hmin, hmax⟩ := hlen
  rw [decodeWire_of_length_in_range hmin hmax, wireInstr_eq_classRow] at h
  cases h
  rw [encode_classRow, WellFormed, wellFormed_classRow]
  refine ⟨congrArg _ (frame_readHdr hmin), decide_eq_true ?_⟩
  have hmax' : dg.length ≤ 12 + P.mpsMax := hmax
  rw [packetOf, List.length_drop]
  omega

/-- Settles O2: a command by its word of the table, a packet by the round trip of the codec (O1). -/
theorem encodeThenDecodeGivesInstruction : Obligations.EncodeThenDecodeGivesInstruction := by
  unfold Obligations.EncodeThenDecodeGivesInstruction
  intro P i hwf
  cases i
  case pktSyn q => exact decode_datagram hwf true false false
  case pktSynack q => exact decode_datagram hwf true true false
  case pktAck q => exact decode_datagram hwf false true false
  case pktNone q => exact decode_datagram hwf false false false
  case pktFin q => exact decode_datagram hwf false false true
  case pktFinack q => exact decode_datagram hwf false true true
  case pktInvalidSynfin q => exact decode_datagram hwf true false true
  case pktInvalidSynackfin q => exact decode_datagram hwf true true true
  all_goals rfl

/-- The commands of the table are their words' only readings. -/
theorem encode_of_mem_table {w : Word} {i : Instr} (h : (w, i) ∈ commandTable) (P : Params) :
    encode i = .cmd w ∧ WellFormed P i := by
  simp only [commandTable, List.mem_cons, Prod.mk.injEq, List.not_mem_nil, or_false] at h
  obtain h | h | h | h | h | h | h | h | h | h | h | h | h := h <;>
  · obtain ⟨rfl, rfl⟩ := h
    exact ⟨rfl, rfl⟩

/-- Settles O3: a word by the command table (O7), a datagram by the round trip of the codec (O1). -/
theorem decodedObjectIsItsEncoding : Obligations.DecodedObjectIsItsEncoding := by
  unfold Obligations.DecodedObjectIsItsEncoding
  intro P e i h
  cases e with
  | cmd w =>
    rw [decode] at h
    cases hw : decodeCmd w <;> rw [hw] at h <;> cases h
    exact encode_of_mem_table ((commandWordsAreTheTable w i).1 hw) P
  | wire dg =>
    rw [decode] at h
    cases hdg : decodeWire P dg <;> rw [hdg] at h <;> cases h
    exact encode_of_decodeWire hdg

/-- The match bits of a wire row under the mask 0xE000. -/
def classMask (syn ackf fin : Bool) : Half :=
  (BitVec.ofBool syn ++ BitVec.ofBool ackf ++ BitVec.ofBool fin : BitVec 3) ++ (0 : BitVec 13)

/-- The masked flags word decides the class bits. -/
theorem class_bits_of_mask {dg : List Byte} {syn ackf fin : Bool}
    (hm : rdBe16 dg 8 &&& 0xE000 = classMask syn ackf fin) :
    (readHdr dg).syn = syn ∧ (readHdr dg).ackf = ackf ∧ (readHdr dg).fin = fin := by
  have hinj : ∀ a b c a' b' c' : Bool, classMask a b c = classMask a' b' c' →
      a = a' ∧ b = b' ∧ c = c' := by decide
  have hbits := Laws.TableRow.class_bits (packetOf (readHdr dg) []) (readHdr dg).syn
    (readHdr dg).ackf (readHdr dg).fin
  refine hinj _ _ _ _ _ _ ?_
  rw [← hm, ← flagword_readHdr]
  exact hbits.symm

/-- A datagram of legal length decodes to the row its masked flags word selects. -/
theorem decodeWire_of_mask {P : Params} {dg : List Byte} (hmin : 12 ≤ dg.length)
    (hmax : dg.length ≤ P.dgramMax) (syn ackf fin : Bool)
    (hm : rdBe16 dg 8 &&& 0xE000 = classMask syn ackf fin) :
    decodeWire P dg = .ok (classRow syn ackf fin (packetOf (readHdr dg) (dg.drop 12))) := by
  obtain ⟨hsyn, hackf, hfin⟩ := class_bits_of_mask hm
  rw [decodeWire_of_length_in_range hmin hmax, wireInstr_eq_classRow, hsyn, hackf, hfin]

/-- Settles O6: the eight values of the mask are the eight combinations of the class bits. -/
theorem wireRowFollowsFlagMask : Obligations.WireRowFollowsFlagMask := by
  unfold Obligations.WireRowFollowsFlagMask
  intro P dg hmin hmax
  have hrow := decodeWire_of_mask hmin hmax
  exact ⟨packetOf (readHdr dg) (dg.drop 12), rdBe16 dg 8 &&& 0xE000, rfl, rfl, rfl, rfl,
    hrow true false false, hrow true true false, hrow false true false, hrow false false false,
    hrow false false true, hrow false true true, hrow true false true, hrow true true true⟩

/-- Settles O8: the tables of the encodings, evaluated. -/
theorem sampleWordsDecode : Obligations.SampleWordsDecode := by
  unfold Obligations.SampleWordsDecode
  decide

end Sys2Proof

namespace Sys2Proof.Machine

/-! ## The CMD event of a word that is no command (R84, R140, R261) -/

/-- The words of the table have a legal shape. -/
theorem fields_of_mem_table {w : Word} {i : Instr} (h : (w, i) ∈ commandTable) :
    cmdReserved w = 0 ∧ cmdOpc w ∈ usedOpcodes ∧
      (cmdProto w = 0 ∨ cmdOpc w = 0x05 ∨ cmdOpc w = 0x06) := by
  have hrows : ∀ r ∈ commandTable, cmdReserved r.1 = 0 ∧ cmdOpc r.1 ∈ usedOpcodes ∧
      (cmdProto r.1 = 0 ∨ cmdOpc r.1 = 0x05 ∨ cmdOpc r.1 = 0x06) := by decide
  exact hrows (w, i) h

/-- An illegal word is refused with ERR_ILLEGAL, and RDRX's opcode clears RESULT. -/
theorem cmdEvent_of_illegal {w : Word} {s : State}
    (h : cmdOpc w ∉ usedOpcodes ∨ cmdReserved w ≠ 0 ∨
      cmdProto w ≠ 0 ∧ cmdOpc w ≠ 0x05 ∧ cmdOpc w ≠ 0x06) :
    cmdEvent w s =
      .next (refuseCmd .errIllegal (if cmdOpc w = 0x09 then { s with result := 0 } else s)) := by
  have hanswer := decodeCmd_answer w
  rw [cmdEvent]
  cases hw : decodeCmd w with
  | ok i =>
    rw [hw] at hanswer
    obtain ⟨hres, hused, hproto⟩ := fields_of_mem_table hanswer
    tauto
  | error r =>
    rw [hw] at hanswer
    cases r with
    | reservedBits o => rw [← hanswer.2]; rfl
    | protoNotTaken o => rw [← hanswer.2]; rfl
    | reservedOpcode o =>
      rw [if_neg fun hrdrx => hanswer (by rw [hrdrx]; decide)]
      rfl
    | protoReserved o =>
      obtain ⟨hres, -, hopc⟩ := hanswer
      have hused : cmdOpc w ∈ usedOpcodes := by obtain h | h := hopc <;> rw [h] <;> decide
      tauto

/-- Opcodes outside the map R81. -/
theorem not_used_of_zero_or_large {o : Byte} (h : o = 0x00 ∨ 0x09 < o) : o ∉ usedOpcodes := by
  have hused : ∀ o ∈ usedOpcodes, ¬ (o = 0x00 ∨ 0x09 < o) := by decide
  exact fun hmem => hused o hmem h

/-- Settles O12: an illegal word by the decoder's answer; PROTO = 3 by the branch of `refuseWord`
that BUSY selects. -/
theorem wordsThatAreNoCommand : Obligations.WordsThatAreNoCommand := by
  unfold Obligations.WordsThatAreNoCommand
  constructor
  · intro s w h
    have hshape : cmdOpc w ∉ usedOpcodes ∨ cmdReserved w ≠ 0 ∨
        cmdProto w ≠ 0 ∧ cmdOpc w ≠ 0x05 ∧ cmdOpc w ≠ 0x06 := by
      rw [← or_assoc] at h
      exact h.imp_left not_used_of_zero_or_large
    rw [cmdEvent_of_illegal hshape]
    exact ⟨fun hother : cmdOpc w ≠ 0x09 => by rw [if_neg hother]; rfl,
      fun hrdrx : cmdOpc w = 0x09 => by rw [if_pos hrdrx]; rfl⟩
  · intro s w h
    have hevent : cmdEvent w s = .next (refuseCmd (if busy s then .errBusy else .errProto) s) := by
      obtain rfl | rfl := h <;> rfl
    rw [hevent]
    exact ⟨fun hbusy => by rw [if_pos hbusy]; rfl,
      fun hidle => by rw [if_neg (by rw [hidle]; decide)]; rfl⟩

end Sys2Proof.Machine
end

section
/-! SUPPORT. STATUS (spec/10_state.md R25, R27), the steps that run one instruction or none
(spec/41_lifecycle.md R140 to R142), and the refusals of the commands (spec/60_exceptions.md R261,
R262). -/

namespace Sys2Proof.Machine

/-! ## STATUS (R25) -/

/-- The weights of the fields of STATUS; bits 31:16 have none. -/
theorem statusWord_toNat (s : State) :
    (statusWord s).toNat = s.tmrArmed.toNat * 2 ^ 15 + s.cfgValid.toNat * 2 ^ 14
      + s.rxOvf.toNat * 2 ^ 13 + s.linger.toNat * 2 ^ 12 + s.sockOpen.toNat * 2 ^ 11
      + s.xfer.bits.toNat * 2 ^ 8 + s.connState.bits.toNat * 2 ^ 5 + (busy s).toNat * 2 ^ 4
      + s.code.bits.toNat := by
  have hzero : (0 : BitVec 16).toNat = 0 := rfl
  simp only [statusWord, toNat_packed, BitVec.toNat_ofBool, hzero]
  omega

/-- The fields of STATUS, read off their weights. -/
theorem statusWord_fields (s : State) :
    ((statusWord s).extractLsb' 0 4 : BitVec 4) = s.code.bits ∧
    (statusWord s).getLsbD 4 = busy s ∧
    ((statusWord s).extractLsb' 5 3 : BitVec 3) = s.connState.bits ∧
    ((statusWord s).extractLsb' 8 3 : BitVec 3) = s.xfer.bits ∧
    (statusWord s).getLsbD 11 = s.sockOpen ∧ (statusWord s).getLsbD 12 = s.linger ∧
    (statusWord s).getLsbD 13 = s.rxOvf ∧ (statusWord s).getLsbD 14 = s.cfgValid ∧
    (statusWord s).getLsbD 15 = s.tmrArmed ∧
    ((statusWord s).extractLsb' 16 16 : Half) = 0 := by
  have hweights := statusWord_toNat s
  have := s.tmrArmed.toNat_lt
  have := s.cfgValid.toNat_lt
  have := s.rxOvf.toNat_lt
  have := s.linger.toNat_lt
  have := s.sockOpen.toNat_lt
  have := s.xfer.bits.isLt
  have := s.connState.bits.isLt
  have := (busy s).toNat_lt
  have := s.code.bits.isLt
  have bit (i : Nat) (b : Bool) (h : (statusWord s).toNat / 2 ^ i % 2 = b.toNat) :
      (statusWord s).getLsbD i = b := by
    rw [Bool.eq_iff_iff, ← Bool.toNat_eq_one, ← Bool.toNat_eq_one, toNat_getLsbD, h]
  have field {n : Nat} (i : Nat) (v : BitVec n)
      (h : (statusWord s).toNat / 2 ^ i % 2 ^ n = v.toNat) : (statusWord s).extractLsb' i n = v :=
    BitVec.eq_of_toNat_eq (by rw [toNat_field, h])
  refine ⟨field 0 _ ?_, bit 4 _ ?_, field 5 _ ?_, field 8 _ ?_, bit 11 _ ?_, bit 12 _ ?_,
    bit 13 _ ?_, bit 14 _ ?_, bit 15 _ ?_, field 16 0 ?_⟩
  case refine_10 => change _ = 0; omega
  all_goals omega

/-- Settles O13: each field of STATUS stands at its bits, with the numbers of `bits`. -/
theorem statusWordLayout : Obligations.StatusWordLayout := by
  unfold Obligations.StatusWordLayout
  intro s
  obtain ⟨hcode, hbusy, hconn, hxfer, hrest⟩ := statusWord_fields s
  rw [hcode, hbusy, hconn, hxfer]
  refine ⟨?code, ?busy, ?conn, ?xfer, ?rest⟩
  case code => cases s.code <;> decide
  case busy =>
    rw [busy_iff]
    simp only [List.mem_cons, List.not_mem_nil, or_false, or_assoc]
  case conn => cases s.connState <;> decide
  case xfer => cases s.xfer <;> decide
  case rest =>
    obtain ⟨hsock, hlinger, hovf, hvalid, harmed, hzero⟩ := hrest
    exact ⟨hsock, hlinger, hovf, hvalid, harmed, hzero, by decide⟩

/-! ## Steps of one instruction, and of none (R140 to R142, R266) -/

/-- Settles O9: CMD's branch of `hostWriteEvent`, and the decoded branch of `rxEvent`. -/
theorem stepRunsDecodedInstruction : Obligations.StepRunsDecodedInstruction := by
  unfold Obligations.StepRunsDecodedInstruction
  constructor
  · intro s w ans rest i hin hw
    rw [step_hostWrite hin, hostWriteEvent, if_pos rfl, cmdEvent, hw]
    rfl
  · intro s dg src rest i hin hready hdg hi
    rw [step_of_inputs hin, eventStep,
      rxEvent_decoded (s := beginStep rest s) hready ((isDatagram_iff dg).2 hdg) hi]
    rfl

/-- A datagram is not taken with the socket closed, with nothing to wait for, or beyond R110's
length. -/
theorem not_taken {s : State} {dg : List Byte}
    (h : s.sockOpen = false ∨ s.connState = .established ∧ s.xfer = .idle ∨
      s.connState = .closed ∧ s.linger = false ∨ 65535 < dg.length) :
    (rxReady s && isDatagram dg) = false := by
  rw [Bool.and_eq_false_iff]
  obtain hsock | ⟨hc, hx⟩ | ⟨hc, hlinger⟩ | hlong := h
  · left; rw [rxReady, hsock, Bool.false_and]
  · left; rw [rxReady, hc, hx]; exact Bool.and_false _
  · left; rw [rxReady, hc, hlinger, Bool.and_false]
  · right; exact decide_eq_false (Nat.not_le.2 hlong)

/-- Settles O10: the formula by cases of CONN_STATE; each step by the branch of its event that does
nothing. -/
theorem stepsWithoutEffect : Obligations.StepsWithoutEffect := by
  unfold Obligations.StepsWithoutEffect
  refine ⟨fun s => ?formula, fun s hin => ?idle, fun s dg src rest hin hnot => ?notTaken,
    fun s a rest hin => ⟨_, step_hostRead hin⟩, fun s rest hin harmed => ?disarmed⟩
  case formula =>
    rw [rxReady_iff]
    simp only [List.mem_cons, List.not_mem_nil, or_false, or_assoc]
  case idle =>
    have hidle : step s = .next (beginStep [] s) := by simp only [step, hin]
    rw [hidle, beginStep, ← hin]
  case notTaken =>
    rw [step_of_inputs hin, eventStep, rxEvent_of_not (s := beginStep rest s) (not_taken hnot)]
    rfl
  case disarmed =>
    rw [step_of_inputs hin, eventStep, tickEvent, if_neg (by simp [harmed])]
    rfl

/-- Settles O47: TMR - 1 is not 0, so `Expire()` does not run. -/
theorem tickCountsDown : Obligations.TickCountsDown := by
  unfold Obligations.TickCountsDown
  intro s rest hin harmed htmr
  have hrunning : s.tmr - 1 ≠ 0 := fun h => htmr (by bv_omega)
  rw [step_of_inputs hin, eventStep, tickEvent]
  simp only [beginStep_fields, harmed, if_true, if_neg hrunning]

/-- Settles O30: no state acts on these packets, and R144 says where the wait restarts. -/
theorem invalidClassesAreIgnored : Obligations.InvalidClassesAreIgnored := by
  unfold Obligations.InvalidClassesAreIgnored
  intro s p hready i hi
  have hquiet : ¬ actsOn s i := by
    obtain rfl | rfl | ⟨rfl, hnil⟩ := hi <;> simp [actsOn, *]
  exact ⟨fun h => exec_restarts_wait hready (waitRestarts_of_listed h) hquiet,
    fun h => exec_changes_nothing hready (waitRestarts_of_not_listed h) hquiet⟩

/-! ## Refusals (R145, R261, R262) -/

/-- SEND and RECV under the three protocols. -/
abbrev transferCommands : List Instr :=
  [.sendSaw, .sendGbn, .sendSr, .recvSaw, .recvGbn, .recvSr]

section
variable {s : State} {i : Instr}

/-- While busy every command but CLOSE and RDRX is refused with ERR_BUSY. -/
theorem exec_errBusy (hbusy : busy s = true)
    (hi : i ∈ [Instr.configure, .bind, .listen, .connect, .sendSaw, .sendGbn, .sendSr, .recvSaw,
      .recvGbn, .recvSr, .wrtx]) : exec i s = .next { s with code := .errBusy } := by
  simp only [List.mem_cons, List.not_mem_nil, or_false] at hi
  obtain rfl | rfl | rfl | rfl | rfl | rfl | rfl | rfl | rfl | rfl | rfl := hi <;>
  exact congrArg _ (runCmd_errBusy _ hbusy rfl)

variable (hidle : busy s = false)
include hidle

/-- A transfer command needs a connection. -/
theorem exec_errState_of_transfer (hc : s.connState ≠ .established)
    (hi : i ∈ transferCommands) : exec i s = .next { s with code := .errState } := by
  have hstate : (s.connState == .established) = false := beq_eq_false_iff_ne.2 hc
  simp only [transferCommands, List.mem_cons, List.not_mem_nil, or_false] at hi
  obtain rfl | rfl | rfl | rfl | rfl | rfl := hi <;>
  exact congrArg _ (runCmd_errState _ (.inl hidle) hstate)

/-- A transfer command needs a configuration. -/
theorem exec_errConfig_of_transfer (hc : s.connState = .established) (hcfg : s.cfgValid = false)
    (hi : i ∈ transferCommands) : exec i s = .next { s with code := .errConfig } := by
  have hstate : (s.connState == .established) = true := beq_iff_eq.2 hc
  simp only [transferCommands, List.mem_cons, List.not_mem_nil, or_false] at hi
  obtain rfl | rfl | rfl | rfl | rfl | rfl := hi <;>
  exact congrArg _ (runCmd_errConfig _ (.inl hidle) hstate hcfg)

/-- SEND needs a length within TX_CAP. -/
theorem exec_errRange_of_send (hc : s.connState = .established) (hcfg : s.cfgValid = true)
    (hlen : s.params.txCap < s.arg0.toNat) (hi : i ∈ [Instr.sendSaw, .sendGbn, .sendSr]) :
    exec i s = .next { s with code := .errRange } := by
  have hstate : (s.connState == .established) = true := beq_iff_eq.2 hc
  have hrange : lenInRange s = false := by
    rw [← Bool.not_eq_true, lenInRange_iff]
    exact Nat.not_le.2 hlen
  simp only [List.mem_cons, List.not_mem_nil, or_false] at hi
  obtain rfl | rfl | rfl := hi <;>
  exact congrArg _ (runCmd_errRange _ (.inl hidle) hstate hcfg hrange)

end

/-- Settles O23: each refusal is the branch of the check its condition selects. -/
theorem refusedCommandWritesCodeOnly : Obligations.RefusedCommandWritesCodeOnly := by
  unfold Obligations.RefusedCommandWritesCodeOnly
  intro s
  refine ⟨fun hbusy i => exec_errBusy hbusy, fun hidle => ⟨fun hsock => ?bindState,
    fun hnot => ?listenState, fun hc => ?connectState,
    fun hc i => exec_errState_of_transfer hidle hc, fun hcfg => ⟨fun hsock hc => ?listenConfig,
      fun hc => ?connectConfig, fun hc i => exec_errConfig_of_transfer hidle hc hcfg⟩,
    fun haddr => ?address, fun hc hcfg hlen i => exec_errRange_of_send hidle hc hcfg hlen,
    fun haddr => ?wrtxRange⟩⟩
  case bindState => exact congrArg _ (runCmd_errState _ (.inl hidle) (by simp [hsock]))
  case listenState =>
    refine congrArg _ (runCmd_errState _ (.inl hidle) ?_)
    obtain hsock | hc := hnot
    · simp [hsock]
    · simp [hc]
  case connectState => exact congrArg _ (runCmd_errState _ (.inl hidle) (by simp [hc]))
  case listenConfig =>
    exact congrArg _ (runCmd_errConfig _ (.inl hidle) (by simp [hsock, hc]) hcfg)
  case connectConfig => exact congrArg _ (runCmd_errConfig _ (.inl hidle) (by simp [hc]) hcfg)
  case address =>
    have hrange : addrInRange s = false := by
      rw [← Bool.not_eq_true, addrInRange_iff]
      exact Nat.not_lt.2 haddr
    exact ⟨fun hsock =>
        congrArg _ (runCmd_errRange _ (.inl hidle) (by simp [hsock]) rfl hrange),
      fun hc hcfg => congrArg _ (runCmd_errRange _ (.inl hidle) (by simp [hc]) hcfg hrange)⟩
  case wrtxRange =>
    have hrange : txAddrInRange s = false := by
      rw [← Bool.not_eq_true, txAddrInRange_iff]
      exact Nat.not_lt.2 haddr
    exact congrArg _ (runCmd_errRange _ (.inl hidle) rfl rfl hrange)

end Sys2Proof.Machine
end

section
/-! SUPPORT. The start of SEND (spec/42_sender.md R190 to R204): the empty transfer, the first
chunk, the burst of `FillWindow()` chunk by chunk, and the offset an SR acknowledgement names
(R205). -/

namespace Sys2Proof.Machine

/-! ## SEND past its checks (R190) -/

/-- What each engine does first: tear down when there is nothing to send, else send one chunk (SAW)
or fill the window (R195, R200, R204). -/
def startSend (x : Xfer) (s : State) : State :=
  if s.txLen = 0 then beginTeardown s
  else arm (if x = .sendSaw then sendChunk s else fillWindow s)

/-- The SEND rows of the opcode table, with the engine each starts. -/
abbrev sendRows : List (Instr × Xfer) :=
  [(.sendSaw, .sendSaw), (.sendGbn, .sendGbn), (.sendSr, .sendSr)]

/-- The three SENDs differ in their engine alone. -/
theorem exec_send {i : Instr} {x : Xfer} (hrow : (i, x) ∈ sendRows) (s : State) :
    exec i s = .next (runCmd (sendCheck s) (fun u => startSend x (beginSend x u)) s) := by
  simp only [sendRows, List.mem_cons, Prod.mk.injEq, List.not_mem_nil, or_false] at hrow
  obtain ⟨rfl, rfl⟩ | ⟨rfl, rfl⟩ | ⟨rfl, rfl⟩ := hrow <;> rfl

/-- The state in which the engine starts. -/
def sendBegun (x : Xfer) (s : State) : State := beginSend x { s with code := .ok }

/-- Past its checks a SEND starts its engine. -/
theorem exec_send_accepted {i : Instr} {x : Xfer} {s : State} (hrow : (i, x) ∈ sendRows)
    (hidle : busy s = false) (hc : s.connState = .established) (hcfg : s.cfgValid = true)
    (hlen : s.arg0.toNat ≤ s.params.txCap) :
    exec i s = .next (startSend x (sendBegun x s)) := by
  rw [exec_send hrow,
    runCmd_accepted _ (.inl hidle) (beq_iff_eq.2 hc) hcfg ((lenInRange_iff s).2 hlen)]
  rfl

/-- Settles O32: with TX_LEN = 0 every engine begins the teardown. -/
theorem zeroLengthSendGoesToClosing : Obligations.ZeroLengthSendGoesToClosing := by
  unfold Obligations.ZeroLengthSendGoesToClosing
  intro s hidle hc hcfg hzero i x hrow
  have hlen : s.arg0.toNat ≤ s.params.txCap := by rw [hzero]; exact Nat.zero_le _
  have htxLen : (sendBegun x s).txLen = 0 := hzero
  rw [exec_send_accepted hrow hidle hc hcfg hlen, startSend, if_pos htxLen, beginTeardown_eq,
    closingAfter, htxLen]
  rfl

/-- Settles O33: the chunk at offset 0 goes into the empty SNDBUF. -/
theorem sawSendsFirstChunk : Obligations.SawSendsFirstChunk := by
  unfold Obligations.SawSendsFirstChunk
  intro s hidle hc hcfg hnonzero hlen
  have hnext : min s.arg0.toNat ((0 : Word).toNat + s.cfgMps.toNat) =
      min s.cfgMps.toNat s.arg0.toNat := by
    rw [Nat.min_comm]
    exact congrArg (min · _) (Nat.zero_add _)
  have htxLen : (sendBegun .sendSaw s).txLen ≠ 0 := hnonzero
  rw [exec_send_accepted (x := .sendSaw) (by decide) hidle hc hcfg hlen, startSend,
    if_neg htxLen, if_pos rfl,
    sendChunk_eq_chunkAfter (Nat.zero_le _) (by simp [sendBegun, beginSend]), ← hnext]
  rfl

/-! ## The burst of `FillWindow()` (R199) -/

/-- The state after the first `n` chunks of a transfer, sent from a cleared sender. -/
def burstAfter (s : State) (n : Nat) : State :=
  { s with
    nxt := BitVec.ofNat 32 (min s.txLen.toNat (n * s.cfgMps.toNat))
    sndBuf := (List.range n).map (fun j => chunkEntry s s.txLen.toNat (j * s.cfgMps.toNat))
    out := { s.out with
      tx := s.out.tx ++
        (List.range n).map (fun j => chunkRecord s s.txLen.toNat (j * s.cfgMps.toNat)) } }

/-- NXT in the burst. -/
theorem burstAfter_nxt (s : State) (n : Nat) :
    (burstAfter s n).nxt.toNat = min s.txLen.toNat (n * s.cfgMps.toNat) := by
  have hlen := s.txLen.isLt
  rw [burstAfter, BitVec.toNat_ofNat]
  omega

/-- The chunks of a transfer of `len` bytes (R192). -/
def chunkCount (mps len : Nat) : Nat := (len + mps - 1) / mps

theorem lt_chunkCount_iff {mps : Nat} (hmps : 1 ≤ mps) (len n : Nat) :
    n < chunkCount mps len ↔ n * mps < len := by
  rw [chunkCount, ← Nat.succ_le_iff, Nat.le_div_iff_mul_le hmps, Nat.succ_mul]
  omega

section
variable {s : State} (hmps : 1 ≤ s.cfgMps.toNat)
include hmps

/-- The next chunk of the burst. -/
theorem sendChunk_burstAfter {n : Nat} (hn : n * s.cfgMps.toNat < s.txLen.toNat) :
    sendChunk (burstAfter s n) = burstAfter s (n + 1) := by
  have hnxt : (burstAfter s n).nxt.toNat = n * s.cfgMps.toNat := by
    rw [burstAfter_nxt, Nat.min_eq_right hn.le]
  rw [sendChunk_eq_chunkAfter, chunkAfter, hnxt]
  · simp only [burstAfter, List.range_succ, List.map_append, List.map_singleton, Nat.succ_mul,
      List.append_assoc]
    rfl
  · rw [hnxt]
    exact hn.le
  · intro c hc
    simp only [burstAfter, List.mem_map, List.mem_range] at hc
    obtain ⟨j, hj, rfl⟩ := hc
    rw [hnxt]
    exact Nat.mul_lt_mul_of_pos_right hj hmps

/-- The chunks `FillWindow()` sends: the window or the transfer limits them. -/
def burstCount (s : State) : Nat := min s.cfgWin.toNat (chunkCount s.cfgMps.toNat s.txLen.toNat)

/-- The condition of a round of `FillWindow()` in the burst. -/
theorem burstAfter_goes_on_iff (n : Nat) :
    (burstAfter s n).sndBuf.length < (burstAfter s n).cfgWin.toNat ∧
        (burstAfter s n).nxt < (burstAfter s n).txLen ↔ n < burstCount s := by
  have hnxt : (burstAfter s n).nxt < (burstAfter s n).txLen ↔
      n * s.cfgMps.toNat < s.txLen.toNat := by
    rw [BitVec.lt_def, burstAfter_nxt]
    simp only [burstAfter]
    omega
  rw [hnxt, burstCount, Nat.lt_min, lt_chunkCount_iff hmps]
  simp [burstAfter]

/-- The rounds of `FillWindow()` carry the burst to its end. -/
theorem fillRounds_burstAfter (f n : Nat) (hn : n ≤ burstCount s) (hf : burstCount s ≤ n + f) :
    fillRounds f (burstAfter s n) = burstAfter s (burstCount s) := by
  induction f generalizing n with
  | zero => rw [Nat.le_antisymm hn hf, fillRounds]
  | succ f ih =>
    rw [fillRounds]
    split
    · next hgoes =>
      have hlt : n < burstCount s := (burstAfter_goes_on_iff hmps n).1 hgoes
      have hmore : n < chunkCount s.cfgMps.toNat s.txLen.toNat :=
        hlt.trans_le (Nat.min_le_right _ _)
      rw [sendChunk_burstAfter hmps ((lt_chunkCount_iff hmps _ _).1 hmore)]
      exact ih (n + 1) hlt (by omega)
    · next hstops =>
      have hle : burstCount s ≤ n := Nat.not_lt.1 (mt (burstAfter_goes_on_iff hmps n).2 hstops)
      rw [Nat.le_antisymm hn hle]

/-- `FillWindow()` from a cleared sender sends the whole burst. -/
theorem fillWindow_of_cleared (hnxt : s.nxt = 0) (hbuf : s.sndBuf = []) :
    fillWindow s = burstAfter s (burstCount s) := by
  have hstart : s = burstAfter s 0 := by
    rw [burstAfter, Nat.zero_mul, Nat.min_zero, List.range_zero, List.map_nil, List.map_nil,
      List.append_nil]
    cases s
    simp only at hnxt hbuf
    rw [hnxt, hbuf]
    rfl
  have hfuel : chunkCount s.cfgMps.toNat s.txLen.toNat ≤ s.txLen.toNat := by
    rw [← Nat.not_lt, lt_chunkCount_iff hmps, Nat.not_lt]
    exact Nat.le_mul_of_pos_right _ hmps
  have hcount : burstCount s ≤ 0 + s.txLen.toNat := by
    rw [Nat.zero_add]
    exact (Nat.min_le_right _ _).trans hfuel
  rw [fillWindow, hnxt]
  conv_lhs => rw [hstart]
  exact fillRounds_burstAfter hmps _ 0 (Nat.zero_le _) hcount

end

/-- Settles O34: past the checks the burst runs from the cleared sender. -/
theorem sendBurstFillsWindow : Obligations.SendBurstFillsWindow := by
  unfold Obligations.SendBurstFillsWindow
  intro s hidle hc hcfg hnonzero hlen hmps i x hrow len mps n
  have hengine : (i, x) ∈ sendRows ∧ x ≠ .sendSaw := by
    simp only [List.mem_cons, Prod.mk.injEq, List.not_mem_nil, or_false] at hrow
    obtain ⟨rfl, rfl⟩ | ⟨rfl, rfl⟩ := hrow <;> decide
  have htxLen : (sendBegun x s).txLen ≠ 0 := hnonzero
  rw [exec_send_accepted hengine.1 hidle hc hcfg hlen, startSend, if_neg htxLen,
    if_neg hengine.2, fillWindow_of_cleared (s := sendBegun x s) hmps rfl rfl]
  rfl

/-! ## The offset an SR acknowledgement names (R205) -/

/-- Where `SrAcked` looks for the final chunk. -/
theorem srAcked_txLen {s : State} (h : s.txLen ≠ 0) :
    srAcked s s.txLen = some ((s.txLen.toNat - 1) / s.cfgMps.toNat * s.cfgMps.toNat) :=
  if_pos ⟨Nat.pos_of_ne_zero (BitVec.toNat_ne.1 h), rfl⟩

/-- The final chunk of a transfer starts at a multiple of CFG_MPS and reaches its end. -/
theorem final_chunk {len mps : Nat} (hlen : 0 < len) (hmps : 1 ≤ mps) :
    (len - 1) / mps * mps < len ∧ len ≤ (len - 1) / mps * mps + mps := by
  have hdiv := Nat.div_add_mod' (len - 1) mps
  have hmod := Nat.mod_lt (len - 1) hmps
  omega

/-- Settles O38: the branches of the pseudocode; a transfer of whole chunks ends in one. -/
theorem srAckedOffset : Obligations.SrAckedOffset := by
  unfold Obligations.SrAckedOffset
  intro s a hmps
  have hpos : s.txLen ≠ 0 → 0 < s.txLen.toNat :=
    fun h => Nat.pos_of_ne_zero (BitVec.toNat_ne.1 h)
  have hother : ¬ (s.txLen ≠ 0 ∧ a = s.txLen) →
      srAcked s a = if s.cfgMps.toNat ≤ a.toNat then some (a.toNat - s.cfgMps.toNat) else none :=
    fun h => if_neg fun ⟨hlen, ha⟩ => h ⟨BitVec.toNat_ne.2 hlen.ne', ha⟩
  refine ⟨fun hlen ha => ?final, fun h hle => ?whole, fun h hlt => ?early,
    fun hdvd hlen => ?aligned⟩
  case final =>
    obtain ⟨hlt, hle⟩ := final_chunk (hpos hlen) hmps
    exact ⟨_, ha ▸ srAcked_txLen hlen, Nat.mul_mod_left _ _, hlt, hle⟩
  case whole => rw [hother h, if_pos hle]
  case early => rw [hother h, if_neg (Nat.not_le.2 hlt)]
  case aligned =>
    obtain ⟨hlt, hle⟩ := final_chunk (hpos hlen) hmps
    have hrest : s.cfgMps.toNat ∣
        s.txLen.toNat - (s.txLen.toNat - 1) / s.cfgMps.toNat * s.cfgMps.toNat :=
      Nat.dvd_sub (Nat.dvd_of_mod_eq_zero hdvd) (Nat.dvd_mul_left _ _)
    have := Nat.le_of_dvd (by omega) hrest
    rw [srAcked_txLen hlen]
    congr 1
    omega

end Sys2Proof.Machine
end

section
/-! SUPPORT. The reassembly of one byte stream (spec/43_receiver.md R232 to R243): what RXBUF holds
of the stream, and that every store, every move of `Merge()` and the delivery keep to it. -/

namespace Sys2Proof.Machine

/-- Every entry's key is found; it needs no canonical form. -/
theorem hasKey_of_mem {α : Type} {m : List (Nat × α)} {c : Nat × α} (h : c ∈ m) :
    hasKey c.1 m = true := by
  induction m with
  | nil => simp at h
  | cons x t ih =>
    rw [hasKey, lookupKey_cons]
    split
    · rfl
    · next hne =>
      obtain rfl | htail := List.mem_cons.1 h
      · exact absurd rfl hne
      · exact ih htail

/-! ## Tilings of a stream -/

section
variable {d : List Byte}

/-- The entries of a tiling stand below its end. -/
theorem Tiles.lt_end {m : OffsetMap (List Byte)} {k e : Nat} (h : Tiles d k m e) :
    k ≤ e ∧ ∀ c ∈ m, c.1 < e := by
  induction m generalizing k with
  | nil => exact ⟨Nat.le_of_eq h, by simp⟩
  | cons c m ih =>
    obtain ⟨hkey, hp, -, htail⟩ := h
    obtain ⟨hle, hlt⟩ := ih htail
    have hpos := List.length_pos_of_ne_nil hp
    refine ⟨by omega, List.forall_mem_cons.2 ⟨?_, hlt⟩⟩
    rw [hkey]
    omega

/-- A slice at the end of a tiling continues it. -/
theorem Tiles.append {m : OffsetMap (List Byte)} {k e : Nat} {p : List Byte} (h : Tiles d k m e)
    (hp : p ≠ []) (hslice : SliceOf d e p) : Tiles d k (m ++ [(e, p)]) (e + p.length) := by
  induction m generalizing k with
  | nil =>
    have hend : k = e := h
    subst hend
    exact ⟨rfl, hp, hslice, rfl⟩
  | cons c m ih =>
    obtain ⟨hkey, hne, hhead, htail⟩ := h
    exact ⟨hkey, hne, hhead, ih htail⟩

/-- A tiling holds the bytes of the stream between its ends. -/
theorem Tiles.flatten_eq {m : OffsetMap (List Byte)} {k e : Nat} (h : Tiles d k m e) :
    flatten m = (d.drop k).take (e - k) := by
  induction m generalizing k with
  | nil =>
    have hend : k = e := h
    simp [hend]
  | cons c m ih =>
    obtain ⟨hkey, -, hslice, htail⟩ := h
    have hle := htail.lt_end.1
    have hsplit : e - k = c.2.length + (e - (k + c.2.length)) := by omega
    rw [flatten_cons, ih htail, hsplit, List.take_add, hslice, List.drop_drop]

end

/-! ## Stores and moves -/

/-- What `Merge()` leaves in OOO stands above EXP: nothing adjoins any more, and the stale entries
are dropped. -/
theorem merge_ahead (s : State) : ∀ c ∈ (merge s).ooo, (merge s).exp.toNat < c.1 := by
  have hdrained := mergeRounds_drained s.ooo.length s le_rfl
  rw [merge, dropStale]
  intro c hmem
  obtain ⟨hleft, hle⟩ := List.mem_filter.1 hmem
  refine (of_decide_eq_true hle).lt_of_ne fun heq => ?_
  have hkey := hasKey_of_mem hleft
  rw [hasKey, ← heq, hdrained] at hkey
  cases hkey

/-- What the stores and the moves of `Merge()` keep: as `StreamInv`, but entries of OOO may stand at
EXP or below it until `Merge()` is done. -/
structure Stitched (d : List Byte) (s : State) : Prop where
  prefixHeld : Tiles d 0 s.rxBuf s.exp.toNat
  withinStream : s.exp.toNat ≤ d.length
  slices : ∀ k p, (k, p) ∈ s.ooo → p ≠ [] ∧ SliceOf d k p ∧ k + p.length ≤ d.length

section
variable {d : List Byte} {s : State}

theorem StreamInv.stitched (h : StreamInv d s) : Stitched d s :=
  ⟨h.prefixHeld, h.withinStream, fun k p hmem => (h.ahead k p hmem).2⟩

theorem Stitched.streamInv (h : Stitched d s) (hahead : ∀ c ∈ s.ooo, s.exp.toNat < c.1) :
    StreamInv d s :=
  ⟨h.prefixHeld, h.withinStream, fun k p hmem => ⟨hahead _ hmem, h.slices k p hmem⟩⟩

/-- The acknowledgement touches no buffer. -/
theorem StreamInv.ackAfter (h : StreamInv d s) (a : Word) : StreamInv d (ackAfter s a) :=
  ⟨h.prefixHeld, h.withinStream, h.ahead⟩

/-- A slice stored at EXP continues the prefix. -/
theorem Stitched.store (h : Stitched d s) (hd : d.length < 2 ^ 32) {p : List Byte} (hp : p ≠ [])
    (hslice : SliceOf d s.exp.toNat p) (hfit : s.exp.toNat + p.length ≤ d.length)
    {o : OffsetMap (List Byte)} (ho : ∀ c ∈ o, c ∈ s.ooo) :
    Stitched d { s with
      ooo := o
      rxBuf := insertKey s.exp.toNat p s.rxBuf
      exp := s.exp + BitVec.ofNat 32 p.length } := by
  have hexp : (s.exp + BitVec.ofNat 32 p.length).toNat = s.exp.toNat + p.length := by
    rw [BitVec.toNat_add, BitVec.toNat_ofNat]
    omega
  constructor
  case prefixHeld =>
    rw [hexp, insertKey_append h.prefixHeld.lt_end.2]
    exact h.prefixHeld.append hp hslice
  case withinStream => rw [hexp]; exact hfit
  case slices => exact fun k q hmem => h.slices k q (ho _ hmem)

/-- Fewer entries may wait. -/
theorem Stitched.sub (h : Stitched d s) {o : OffsetMap (List Byte)} (ho : ∀ c ∈ o, c ∈ s.ooo) :
    Stitched d { s with ooo := o } :=
  ⟨h.prefixHeld, h.withinStream, fun k p hmem => h.slices k p (ho _ hmem)⟩

/-- `Merge()` ends with OOO ahead of EXP. -/
theorem Stitched.merge (h : Stitched d s) (hd : d.length < 2 ^ 32) : StreamInv d (merge s) := by
  have hmoves : Stitched d (mergeRounds s.ooo.length s) :=
    mergeRounds_keeps (Q := Stitched d) _ _ (fun u q hq hu => by
      obtain ⟨hq', hslice, hfit⟩ := hu.slices _ _ (lookupKey_mem hq)
      exact hu.store hd hq' hslice hfit fun c => mem_eraseKey) h
  have hahead := merge_ahead s
  rw [Machine.merge, dropStale] at hahead ⊢
  exact (hmoves.sub fun c => List.mem_of_mem_filter).streamInv hahead

/-! ## Arriving packets (R231 to R239) -/

/-- A data packet stands below EXP, at EXP or above it (R231). -/
theorem seq_cases (p : Packet) (s : State) : p.seq < s.exp ∨ p.seq = s.exp ∨ s.exp < p.seq := by
  bv_omega

section
variable {p : Packet} (hd : d.length < 2 ^ 32) (hp : p.payload ≠ [])
  (hslice : SliceOf d p.seq.toNat p.payload) (hfit : p.seq.toNat + p.payload.length ≤ d.length)
include hd hp hslice hfit

/-- A slice at EXP is stored, and merged behind where entries may wait (R232). -/
theorem StreamInv.dataInOrder (h : StreamInv d s) (hseq : p.seq = s.exp)
    (hooo : s.ooo ≠ [] → buffersOoo s = true) : StreamInv d (dataInOrder p s) := by
  cases hfits : fitsRx p s with
  | false =>
    rw [dataInOrder_of_not_fits hfits]
    exact ⟨h.prefixHeld, h.withinStream, h.ahead⟩
  | true =>
    rw [hseq] at hslice hfit
    have hstored : Stitched d (storedAtExp p s) := by
      rw [storedAtExp, hseq]
      exact h.stitched.store hd hp hslice hfit fun c hmem => hmem
    rw [dataInOrder_of_fits hfits]
    refine StreamInv.ackAfter ?_ _
    split
    · exact hstored.merge hd
    · next hbuffers =>
      have hnone : s.ooo = [] := by_contra fun hne => hbuffers (hooo hne)
      exact hstored.streamInv fun c hmem => absurd (hnone ▸ hmem) List.not_mem_nil

omit hd in
/-- A slice ahead of EXP waits in OOO (R235). -/
theorem StreamInv.dataBuffered (h : StreamInv d s) (habove : s.exp < p.seq) :
    StreamInv d (dataBuffered p s) := by
  cases hkey : hasKey p.seq.toNat s.ooo with
  | true =>
    rw [dataBuffered_of_key hkey]
    exact h.ackAfter _
  | false =>
    by_cases hroom : s.ooo.length < s.params.oooSlots ∧ fitsRx p s = true
    · rw [dataBuffered_of_room hkey hroom.1 hroom.2]
      refine StreamInv.ackAfter ?_ _
      refine ⟨h.prefixHeld, h.withinStream, fun k q hmem => ?_⟩
      obtain hnew | hold := mem_insertKey hmem
      · cases hnew
        exact ⟨habove, hp, hslice, hfit⟩
      · exact h.ahead k q hold
    · rw [dataBuffered_of_no_room hkey hroom]
      exact h

/-- A slice that arrives keeps the stream together, if it is recorded already when it is below EXP
(R243). -/
theorem StreamInv.dataInRecv (h : StreamInv d s) (hooo : s.ooo ≠ [] → buffersOoo s = true)
    (hrecorded : p.seq < s.exp → hasKey p.seq.toNat s.rxBuf = true) :
    StreamInv d (dataInRecv p s) := by
  obtain hbelow | hat | habove := seq_cases p s
  · rw [dataInRecv_of_lt hbelow, dataDuplicate_of_key (hrecorded hbelow)]
    exact h.ackAfter _
  · rw [dataInRecv_of_eq hat]
    exact h.dataInOrder hd hp hslice hfit hat hooo
  · rw [dataInRecv_of_gt habove]
    split
    · exact h.dataBuffered hp hslice hfit habove
    · exact h

end

/-- RXBUF holds the first EXP bytes of the stream. -/
theorem StreamInv.flatten_rxBuf (h : StreamInv d s) : flatten s.rxBuf = d.take s.exp.toNat := by
  rw [h.prefixHeld.flatten_eq, List.drop_zero, Nat.sub_zero]

/-- RECV_x is one of the three receivers. -/
theorem xfer_mem_of_receiving (h : Receiving s) : s.xfer ∈ [Xfer.recvSaw, .recvGbn, .recvSr] := by
  obtain ⟨-, hx⟩ := h
  revert hx
  cases s.xfer <;> decide

/-- What waits in OOO was buffered by SR under policy BUFFER. -/
theorem ReceiverInv.ooo_buffers (h : ReceiverInv s) (hne : s.ooo ≠ []) : buffersOoo s = true := by
  obtain ⟨hx, hpol⟩ := h.oooOnlySr hne
  exact buffersOoo_of_buffer hx hpol

end

/-- Settles O56: `StreamInv` through the branches of a data packet; the FIN delivers RXBUF flattened
(O46), which is the stream's first EXP bytes. -/
theorem receiverReassemblesTheStream : Obligations.ReceiverReassemblesTheStream := by
  unfold Obligations.ReceiverReassemblesTheStream
  intro d s t p hd hinv hrecv hstream _
  have hsock : s.sockOpen = true := hinv.control.connSock (by rw [hrecv.1]; decide)
  refine ⟨fun i hi hp hslice hfit hrecorded hexec => ?data, fun hexec => ?fin⟩
  case data =>
    rw [exec_data hsock hrecv hp hi] at hexec
    cases hexec
    exact hstream.dataInRecv hd hp hslice hfit hinv.receiver.ooo_buffers hrecorded
  case fin =>
    obtain ⟨m, hfin, hread, -⟩ := finCompletesRecv s p hsock hrecv.1 (xfer_mem_of_receiving hrecv)
    rw [hfin] at hexec
    cases hexec
    have hbytes : (s.rxBuf.map (fun e => e.2)).flatten = d.take s.exp.toNat :=
      hstream.flatten_rxBuf
    have hlen : (d.take s.exp.toNat).length = s.exp.toNat :=
      List.length_take_of_le hstream.withinStream
    simp only [hbytes, hlen] at hread ⊢
    refine ⟨by rw [BitVec.ofNat_toNat, BitVec.setWidth_eq], fun a ha => ?_⟩
    have hsome : d[a]? = some (d[a]'(ha.trans_le hstream.withinStream)) :=
      List.getElem?_eq_getElem _
    rw [delivByte, hread a, if_pos ha, List.getElem?_take_of_lt ha, hsome]
    rfl

end Sys2Proof.Machine
end

section
/-! SUPPORT. What a step can do, said once (spec/00_scope.md R8; spec/41_lifecycle.md R140 to R145):
the effect of each command past the decoder, of each packet while `rx_ready` = 1, of the timer's
expiry, and of each event. The whole-machine rules are read off these lists. -/

namespace Sys2Proof.Machine

/-! ## Commands (R140, R145) -/

/-- The RECV rows of the opcode table, with the engine each starts. -/
abbrev recvRows : List (Instr × Xfer) :=
  [(.recvSaw, .recvSaw), (.recvGbn, .recvGbn), (.recvSr, .recvSr)]

/-- What a command does: it answers with CODE alone, or RDRX with RESULT too, or its checks are
passed and it runs. -/
inductive CmdEffect (s : State) : Instr → State → Prop
  | answered (i : Instr) (c : ResultCode) : CmdEffect s i { s with code := c }
  | read (c : ResultCode) (v : Word) : CmdEffect s .rdrx { s with code := c, result := v }
  | configured (idle : busy s = false) (legal : configLegal s = true) :
      CmdEffect s .configure (configureHandler { s with code := .ok })
  | bound (idle : busy s = false) :
      CmdEffect s .bind
        { s with code := .ok, sockOpen := true, localAddr := opAddr s, linger := false }
  | listening (idle : busy s = false) (sock : s.sockOpen = true) (closed : s.connState = .closed)
      (valid : s.cfgValid = true) : CmdEffect s .listen (listenHandler { s with code := .ok })
  | connecting (idle : busy s = false) (closed : s.connState = .closed)
      (valid : s.cfgValid = true) (tag : Addr)
      (isTag : tag = s.localAddr ∨ ∃ e, tag = tagOf s.params e) :
      CmdEffect s .connect
        (connectOpen { s with code := .ok, sockOpen := true, localAddr := tag })
  | sending {i : Instr} {x : Xfer} (row : (i, x) ∈ sendRows) (idle : busy s = false)
      (conn : s.connState = .established) (valid : s.cfgValid = true)
      (len : s.arg0.toNat ≤ s.params.txCap) : CmdEffect s i (startSend x (sendBegun x s))
  | receiving {i : Instr} {x : Xfer} (row : (i, x) ∈ recvRows) (idle : busy s = false)
      (conn : s.connState = .established) (valid : s.cfgValid = true) :
      CmdEffect s i (beginRecv x { s with code := .ok })
  | closed : CmdEffect s .close (closeHandler { s with code := .ok })
  | written (idle : busy s = false) (range : s.arg0.toNat < s.params.txCap) :
      CmdEffect s .wrtx (wrtxHandler { s with code := .ok })

section
variable {s : State}

/-- A command is refused, or its checks are passed and its handler runs. -/
theorem runCmd_effect {c : CmdCheck} {handler : State → State} {i : Instr}
    (hrun : (busy s = false ∨ c.whileBusy = true) → c.stateOk = true → c.configOk = true →
      c.rangeOk = true → CmdEffect s i (handler { s with code := .ok })) :
    CmdEffect s i (runCmd c handler s) := by
  obtain ⟨hidle, hstate, hconfig, hrange, h⟩ | ⟨r, -, h⟩ := runCmd_cases c handler s <;> rw [h]
  · exact hrun hidle hstate hconfig hrange
  · exact .answered i r

theorem bindHandler_effect (hidle : busy s = false) :
    CmdEffect s .bind (bindHandler { s with code := .ok }) := by
  rw [bindHandler]
  split
  · exact .bound hidle
  all_goals exact .answered _ _

theorem connectHandler_effect (hidle : busy s = false) (hclosed : s.connState = .closed)
    (hvalid : s.cfgValid = true) :
    CmdEffect s .connect (connectHandler { s with code := .ok }) := by
  rw [connectHandler]
  split
  · next hsock =>
    have heffect := CmdEffect.connecting hidle hclosed hvalid s.localAddr (.inl rfl)
    rwa [← show s.sockOpen = true from hsock] at heffect
  · split
    · exact .connecting hidle hclosed hvalid _ (.inr ⟨_, rfl⟩)
    · exact .answered _ _

theorem rdrx_effect {c : CmdCheck} :
    CmdEffect s .rdrx (if checkCmd c s = .ok then runCmd c rdrxHandler s
      else runCmd c rdrxHandler { s with result := 0 }) := by
  split
  · exact runCmd_effect fun _ _ _ _ => .read _ _
  · next hfails =>
    rw [runCmd_refused (s := { s with result := 0 }) rdrxHandler rfl hfails]
    exact .read _ _

theorem send_effect {i : Instr} {x : Xfer} (hrow : (i, x) ∈ sendRows) :
    ∃ t, exec i s = .next t ∧ CmdEffect s i t :=
  ⟨_, exec_send hrow s, runCmd_effect fun hpass hconn hvalid hlen =>
    .sending hrow (hpass.resolve_right Bool.false_ne_true) (beq_iff_eq.1 hconn) hvalid
      ((lenInRange_iff s).1 hlen)⟩

/-- The effects of the commands. -/
theorem exec_cmd_effect {i : Instr} {w : Word} (hw : encode i = .cmd w) :
    ∃ t, exec i s = .next t ∧ CmdEffect s i t := by
  have idle (h : busy s = false ∨ false = true) : busy s = false :=
    h.resolve_right Bool.false_ne_true
  cases i
  case configure =>
    exact ⟨_, rfl, runCmd_effect fun hpass _ hlegal _ => .configured (idle hpass) hlegal⟩
  case bind => exact ⟨_, rfl, runCmd_effect fun hpass _ _ _ => bindHandler_effect (idle hpass)⟩
  case listen =>
    refine ⟨_, rfl, runCmd_effect fun hpass hstate hvalid _ => ?_⟩
    obtain ⟨hsock, hclosed⟩ := Bool.and_eq_true_iff.1 hstate
    exact .listening (idle hpass) hsock (beq_iff_eq.1 hclosed) hvalid
  case connect =>
    exact ⟨_, rfl, runCmd_effect fun hpass hclosed hvalid _ =>
      connectHandler_effect (idle hpass) (beq_iff_eq.1 hclosed) hvalid⟩
  case close => exact ⟨_, rfl, runCmd_effect fun _ _ _ _ => .closed⟩
  case wrtx =>
    exact ⟨_, rfl, runCmd_effect fun hpass _ _ hrange =>
      .written (idle hpass) ((txAddrInRange_iff s).1 hrange)⟩
  case rdrx => exact ⟨_, rfl, rdrx_effect⟩
  case sendSaw => exact send_effect (x := .sendSaw) (by decide)
  case sendGbn => exact send_effect (x := .sendGbn) (by decide)
  case sendSr => exact send_effect (x := .sendSr) (by decide)
  case recvSaw | recvGbn | recvSr =>
    exact ⟨_, rfl, runCmd_effect fun hpass hconn hvalid _ =>
      .receiving (by decide) (idle hpass) (beq_iff_eq.1 hconn) hvalid⟩
  all_goals cases hw

end

/-! ## Packets (R142) -/

/-- What a packet does while `rx_ready` = 1: it is ignored, or the state acts on it. -/
inductive PktEffect (s : State) : Instr → State → Prop
  | ignored (i : Instr) : PktEffect s i (ignorePacket s)
  | syn (p : Packet) (conn : s.connState = .listen) : PktEffect s (.pktSyn p) (synInListen p s)
  | accepted (p : Packet) (conn : s.connState = .synReceived) :
      PktEffect s (.pktAck p) (ackInSynReceived s)
  | synack (p : Packet) (conn : s.connState = .synSent) :
      PktEffect s (.pktSynack p) (synackInSynSent p s)
  | finack (p : Packet) (conn : s.connState = .closing) :
      PktEffect s (.pktFinack p) (finackInClosing s)
  | lingerFin (p : Packet) (conn : s.connState = .closed) (linger : s.linger = true) :
      PktEffect s (.pktFin p) (finInLinger p s)
  | recvFin (p : Packet) (recv : Receiving s) : PktEffect s (.pktFin p) (finInRecv p s)
  | data (i : Instr) (p : Packet) (isData : i = .pktAck p ∨ i = .pktNone p)
      (recv : Receiving s) (payload : p.payload ≠ []) : PktEffect s i (dataInRecv p s)
  | sawAcked (p : Packet) (conn : s.connState = .established) (xfer : s.xfer = .sendSaw) (k : Nat)
      (head : isHead k s.sndBuf = true) : PktEffect s (.pktAck p) (sawAdvance (dropEntry k s))
  | acked (p : Packet) (sending : Sending s) (notSaw : s.xfer ≠ .sendSaw) (k : Nat)
      (head : s.xfer ≠ .sendSr → isHead k s.sndBuf = true) (wasHead : Bool) :
      PktEffect s (.pktAck p) (srAdvance wasHead (dropEntry k s))

section
variable {s : State}

theorem ackInSaw_effect (p : Packet) (hc : s.connState = .established) (hx : s.xfer = .sendSaw) :
    PktEffect s (.pktAck p) (ackInSaw p s) := by
  rw [ackInSaw]
  split
  · exact .ignored _
  · next k e rest hbuf =>
    split
    · exact .sawAcked p hc hx k (by rw [hbuf]; exact beq_self_eq_true k)
    · exact .ignored _

theorem ackInGbn_effect (p : Packet) (hc : s.connState = .established) (hx : s.xfer = .sendGbn) :
    PktEffect s (.pktAck p) (ackInGbn p s) := by
  have hsending : Sending s := ⟨hc, by rw [hx]; rfl⟩
  rw [ackInGbn]
  split
  · exact .ignored _
  · next k e rest hbuf =>
    split
    · rw [gbnAdvance_eq_srAdvance]
      exact .acked p hsending (by rw [hx]; decide) k
        (fun _ => by rw [hbuf]; exact beq_self_eq_true k) true
    · exact .ignored _

theorem ackInSr_effect (p : Packet) (hc : s.connState = .established) (hx : s.xfer = .sendSr) :
    PktEffect s (.pktAck p) (ackInSr p s) := by
  have hsending : Sending s := ⟨hc, by rw [hx]; rfl⟩
  rw [ackInSr]
  split
  · exact .ignored _
  · split
    · exact .acked p hsending (by rw [hx]; decide) _ (fun hne => absurd hx hne) _
    · exact .ignored _

/-- The engine that XFER names takes an ACK the state acts on. -/
theorem ackInEstablished_effect {p : Packet} (hc : s.connState = .established)
    (h : s.xfer.isSend = true ∨ s.xfer.isRecv = true ∧ p.payload ≠ []) :
    PktEffect s (.pktAck p) (ackInEstablished p s) := by
  rw [ackInEstablished]
  cases hx : s.xfer
  case sendSaw => exact ackInSaw_effect p hc hx
  case sendGbn => exact ackInGbn_effect p hc hx
  case sendSr => exact ackInSr_effect p hc hx
  case idle => simp [hx, Xfer.isSend, Xfer.isRecv] at h
  case recvSaw | recvGbn | recvSr =>
    have hp : p.payload ≠ [] := (h.resolve_left (by rw [hx]; decide)).2
    rw [show ackOrNoneInRecv p s = dataInRecv p s from if_neg hp]
    exact .data _ p (.inl rfl) ⟨hc, by rw [hx]; rfl⟩ hp

/-- The effects of the packets. -/
theorem exec_pkt_effect {i : Instr} {dg : List Byte} (hi : encode i = .wire dg)
    (hready : rxReady s = true) : ∃ t, exec i s = .next t ∧ PktEffect s i t := by
  by_cases hacts : actsOn s i
  case neg => exact ⟨_, exec_of_not_actsOn hready hacts, .ignored i⟩
  case pos =>
  cases i
  case pktSyn p =>
    rw [exec, execPktSyn, whenReady_of_ready _ hready, onSyn_of_listen p hacts]
    exact ⟨_, rfl, .syn p hacts⟩
  case pktSynack p =>
    rw [exec, execPktSynack, whenReady_of_ready _ hready, onSynack_of_synSent p hacts]
    exact ⟨_, rfl, .synack p hacts⟩
  case pktFinack p =>
    rw [exec, execPktFinack, whenReady_of_ready _ hready, onFinack_of_closing p hacts]
    exact ⟨_, rfl, .finack p hacts⟩
  case pktAck p =>
    rw [exec, execPktAck, whenReady_of_ready _ hready]
    obtain hc | ⟨hc, hengine⟩ := hacts
    · rw [onAck_of_synReceived p hc]
      exact ⟨_, rfl, .accepted p hc⟩
    · rw [onAck, hc]
      exact ⟨_, rfl, ackInEstablished_effect hc hengine⟩
  case pktNone p =>
    obtain ⟨hc, hx, hp⟩ := hacts
    have hsock := ((rxReady_iff s).1 hready).1
    exact ⟨_, exec_data hsock ⟨hc, hx⟩ hp (.inr rfl), .data _ p (.inr rfl) ⟨hc, hx⟩ hp⟩
  case pktFin p =>
    have hsock := ((rxReady_iff s).1 hready).1
    obtain hc | hrecv := hacts
    · have hlinger : s.linger = true := by rw [rxReady, hsock, hc] at hready; exact hready
      rw [exec, execPktFin, whenReady_of_ready _ hready, onFin_of_closed p hc]
      exact ⟨_, rfl, .lingerFin p hc hlinger⟩
    · exact ⟨_, exec_pktFin_of_receiving p hsock hrecv, .recvFin p hrecv⟩
  case pktInvalidSynfin | pktInvalidSynackfin => exact hacts.elim
  all_goals cases hi

end

/-! ## Expiry (R143) -/

/-- What `Expire()` does: nothing where no timer runs, a handler of the handshake or the teardown,
or the resend of entries of SNDBUF (R198, R203, R209). -/
inductive ExpiryEffect (s : State) : State → Prop
  | none (quiet : timerState s = false) : ExpiryEffect s s
  | listen (conn : s.connState = .listen) : ExpiryEffect s (arm s)
  | synReceived (conn : s.connState = .synReceived) : ExpiryEffect s (expireSynReceived s)
  | synSent (conn : s.connState = .synSent) : ExpiryEffect s (expireSynSent s)
  | closing (conn : s.connState = .closing) : ExpiryEffect s (expireClosing s)
  | resent (sending : Sending s) (l : OffsetMap SndEntry) (sub : ∀ c ∈ l, c ∈ s.sndBuf) :
      ExpiryEffect s (arm (retransmitAll l s))

/-- The resend of the oldest entry is that of the first one, if there is one. -/
theorem retransmitHead_eq (s : State) :
    retransmitHead s = retransmitAll (s.sndBuf.take 1) s := by
  rw [retransmitHead]
  split <;> next hbuf => rw [hbuf]; rfl

theorem expire_effect (s : State) : ExpiryEffect s (expire s) := by
  cases hc : s.connState
  case listen => rw [expire_of_listen s hc]; exact .listen hc
  case synReceived => rw [expire_of_synReceived s hc]; exact .synReceived hc
  case synSent => rw [expire_of_synSent s hc]; exact .synSent hc
  case closing => rw [expire_of_closing s hc]; exact .closing hc
  case closed => rw [expire, hc]; exact .none (by rw [timerState, hc])
  case established =>
    cases hx : s.xfer
    case sendSaw =>
      rw [expire_of_sawOrSr hc (.inl hx), retransmitHead_eq]
      exact .resent ⟨hc, by rw [hx]; rfl⟩ _ fun c => List.mem_of_mem_take
    case sendSr =>
      rw [expire_of_sawOrSr hc (.inr hx), retransmitHead_eq]
      exact .resent ⟨hc, by rw [hx]; rfl⟩ _ fun c => List.mem_of_mem_take
    case sendGbn =>
      rw [expire_of_sendGbn hc hx]
      exact .resent ⟨hc, by rw [hx]; rfl⟩ _ fun c hmem => hmem
    all_goals
      rw [expire, hc, hx]
      exact .none (by rw [timerState, hc, hx]; rfl)

/-! ## Events (R8) -/

/-- The state in which an event is handled: it is taken, the output ports are empty, and what comes
with it is latched (R8, R45, R275). -/
def taken (rest : List Event) (ans : EnvAnswer) (src : Addr) (s : State) : State :=
  { s with inputs := rest, out := StepOutput.none, answer := ans, rxSrc := src }

/-- What a step does, event by event. -/
inductive StepEffect (s : State) : State → Prop
  | idle (pending : s.inputs = []) : StepEffect s (beginStep [] s)
  | command {w : Word} {ans : EnvAnswer} {rest : List Event} {i : Instr} {t : State}
      (pending : s.inputs = .hostWrite 0 w ans :: rest) (isCmd : (w, i) ∈ commandTable)
      (effect : CmdEffect (taken rest ans s.rxSrc s) i t) : StepEffect s t
  | illegal {w : Word} {ans : EnvAnswer} {rest : List Event}
      (pending : s.inputs = .hostWrite 0 w ans :: rest) (c : ResultCode) (v : Word)
      (result : cmdOpc w ≠ 0x09 → v = s.result) :
      StepEffect s { taken rest ans s.rxSrc s with code := c, result := v }
  | argument {a d : Word} {ans : EnvAnswer} {rest : List Event}
      (pending : s.inputs = .hostWrite a d ans :: rest) (a0 a1 a2 a3 : Word) :
      StepEffect s { beginStep rest s with arg0 := a0, arg1 := a1, arg2 := a2, arg3 := a3 }
  | read {a : Word} {rest : List Event} (pending : s.inputs = .hostRead a :: rest) (v : Word) :
      StepEffect s
        { s with inputs := rest, out := { StepOutput.none with busData := some v } }
  | packet {dg : List Byte} {src : Addr} {rest : List Event} {i : Instr} {t : State}
      (pending : s.inputs = .rx dg src :: rest) (wf : WellFormed s.params i)
      (effect : PktEffect (taken rest s.answer (tagOf s.params src) s) i t) : StepEffect s t
  | dropped {dg : List Byte} {src : Addr} {rest : List Event}
      (pending : s.inputs = .rx dg src :: rest) (n : Nat) :
      StepEffect s (ignorePacket (droppedState n rest s))
  | passed {e : Event} {rest : List Event} (pending : s.inputs = e :: rest)
      (notReset : e ≠ .reset) : StepEffect s (beginStep rest s)
  | counted {rest : List Event} (pending : s.inputs = .tick :: rest) (armed : s.tmrArmed = true)
      (running : s.tmr ≠ 1) :
      StepEffect s { s with inputs := rest, out := StepOutput.none, tmr := s.tmr - 1 }
  | expired {rest : List Event} {t : State} (pending : s.inputs = .tick :: rest)
      (armed : s.tmrArmed = true) (effect : ExpiryEffect (timedOut s rest) t) : StepEffect s t
  | reset {rest : List Event} (pending : s.inputs = .reset :: rest) :
      StepEffect s (resetEvent (beginStep rest s))

/-- The refusal of a word writes CODE, and RESULT if the opcode is RDRX's. -/
theorem refuseWord_eq {w : Word} {r : CmdReject} (h : CmdAnswer w (.error r)) (s : State) :
    ∃ c v, (cmdOpc w ≠ 0x09 → v = s.result) ∧
      refuseWord r s = { s with code := c, result := v } := by
  have hcleared {o : Byte} (ho : o = cmdOpc w) : ∃ c v, (cmdOpc w ≠ 0x09 → v = s.result) ∧
      refuseCmd .errIllegal (if o = 0x09 then { s with result := 0 } else s) =
        { s with code := c, result := v } := by
    split
    · next hrdrx => exact ⟨_, 0, fun hne => absurd (ho ▸ hrdrx) hne, rfl⟩
    · exact ⟨_, s.result, fun _ => rfl, rfl⟩
  cases r with
  | reservedBits o => exact hcleared h.2
  | protoNotTaken o => exact hcleared h.2
  | reservedOpcode o => exact ⟨_, s.result, fun _ => rfl, rfl⟩
  | protoReserved o => exact ⟨_, s.result, fun _ => rfl, rfl⟩

/-- A write past CMD touches the argument registers alone. -/
theorem regWrite_eq (a d : Word) (s : State) :
    ∃ a0 a1 a2 a3, regWrite a d s = { s with arg0 := a0, arg1 := a1, arg2 := a2, arg3 := a3 } := by
  rw [regWrite]
  split
  · exact ⟨d, s.arg1, s.arg2, s.arg3, rfl⟩
  split
  · exact ⟨s.arg0, d, s.arg2, s.arg3, rfl⟩
  split
  · exact ⟨s.arg0, s.arg1, d, s.arg3, rfl⟩
  split
  · exact ⟨s.arg0, s.arg1, s.arg2, d, rfl⟩
  · exact ⟨s.arg0, s.arg1, s.arg2, s.arg3, rfl⟩

section
variable {s : State} {rest : List Event}

/-- A host write is a command, an illegal word, or the write of an argument register. -/
theorem step_hostWrite_effect {a d : Word} {ans : EnvAnswer}
    (hin : s.inputs = .hostWrite a d ans :: rest) : ∃ t, step s = .next t ∧ StepEffect s t := by
  rw [step_hostWrite hin, hostWriteEvent]
  split
  · next hcmd =>
    subst hcmd
    have hanswer := decodeCmd_answer d
    rw [cmdEvent]
    cases hd : decodeCmd d with
    | ok i =>
      rw [hd] at hanswer
      obtain ⟨t, ht, heffect⟩ := exec_cmd_effect (s := taken rest ans s.rxSrc s)
        (encode_of_mem_table hanswer s.params).1
      exact ⟨t, ht, .command hin hanswer heffect⟩
    | error r =>
      rw [hd] at hanswer
      obtain ⟨c, v, hresult, hrefused⟩ := refuseWord_eq hanswer (taken rest ans s.rxSrc s)
      exact ⟨_, rfl, hrefused ▸ .illegal hin c v hresult⟩
  · obtain ⟨a0, a1, a2, a3, hwritten⟩ := regWrite_eq a d (beginStep rest s)
    exact ⟨_, rfl, hwritten ▸ .argument hin a0 a1 a2 a3⟩

/-- An RX event brings a packet, a malformed datagram, or nothing. -/
theorem step_rx_effect {dg : List Byte} {src : Addr} (hin : s.inputs = .rx dg src :: rest) :
    ∃ t, step s = .next t ∧ StepEffect s t := by
  rw [step_of_inputs hin, eventStep]
  cases htakes : rxReady (beginStep rest s) && isDatagram dg with
  | false =>
    rw [rxEvent_of_not htakes]
    exact ⟨_, rfl, .passed hin (by simp)⟩
  | true =>
    obtain ⟨hready, hdg⟩ := Bool.and_eq_true_iff.1 htakes
    cases hdecode : decodeWire s.params dg with
    | ok i =>
      obtain ⟨hencode, hwf⟩ := encode_of_decodeWire hdecode
      rw [rxEvent_decoded (s := beginStep rest s) hready hdg hdecode]
      obtain ⟨t, ht, heffect⟩ := exec_pkt_effect
        (s := taken rest s.answer (tagOf s.params src) s) hencode hready
      exact ⟨t, ht, .packet hin hwf heffect⟩
    | error e =>
      rw [rxEvent_malformed (s := beginStep rest s) hready hdg hdecode, dropMalformed_eq]
      exact ⟨_, rfl, .dropped hin e.len⟩

/-- A tick does nothing, counts down, or runs `Expire()`. -/
theorem step_tick_effect (hin : s.inputs = .tick :: rest) :
    ∃ t, step s = .next t ∧ StepEffect s t := by
  cases harmed : s.tmrArmed with
  | false =>
    rw [step_of_inputs hin, eventStep, tickEvent, if_neg (by simp [harmed])]
    exact ⟨_, rfl, .passed hin (by simp)⟩
  | true =>
    by_cases htmr : s.tmr = 1
    · exact ⟨_, step_tick_expire hin harmed htmr, .expired hin harmed (expire_effect _)⟩
    · exact ⟨_, tickCountsDown s rest hin harmed htmr, .counted hin harmed htmr⟩

/-- The effects of the events. -/
theorem stepEffect_of_step {t : State} (h : step s = .next t) : StepEffect s t := by
  have heffect : ∃ t, step s = .next t ∧ StepEffect s t := by
    cases hin : s.inputs with
    | nil => exact ⟨_, by rw [step, hin], .idle hin⟩
    | cons e rest =>
      cases e with
      | hostWrite a d ans => exact step_hostWrite_effect hin
      | hostRead a => exact ⟨_, step_hostRead hin, .read hin _⟩
      | rx dg src => exact step_rx_effect hin
      | tick => exact step_tick_effect hin
      | reset => exact ⟨_, step_of_inputs hin, .reset hin⟩
  obtain ⟨u, hu, heffect⟩ := heffect
  rw [hu] at h
  cases h
  exact heffect

end

end Sys2Proof.Machine
end

section
/-! SUPPORT. The fields each part of the invariant reads, so that a step that writes none of them
keeps that part; and the invariant at RESET and when an event is taken. -/

namespace Sys2Proof.Machine

/-! ## What each part reads -/

/-- The fields of `ControlInv`. -/
def controlPart (s : State) :=
  (s.params, s.cfgMps, s.cfgWin, s.cfgRto, s.cfgValid, s.connState, s.xfer, s.sockOpen, s.linger,
    s.tmr, s.tmrArmed)

/-- The fields of `FormInv`. -/
def formPart (s : State) :=
  (s.params, s.txMem, s.deliv, s.sndBuf, s.rxBuf, s.ooo, s.localAddr, s.peerAddr, s.rxSrc)

/-- The fields of `SenderInv`. -/
def senderPart (s : State) :=
  (s.params, s.cfgMps, s.cfgWin, s.connState, s.xfer, s.hsNxt, s.txLen, s.nxt, s.sndBuf, s.txMem,
    s.unit, s.resets)

/-- The fields of `ReceiverInv`. -/
def receiverPart (s : State) :=
  (s.params, s.connState, s.xfer, s.exp, s.rxBuf, s.ooo, s.deliv, s.delivLen)

section
variable {s t : State}

theorem ControlInv.of_part_eq (h : ControlInv s) (heq : controlPart t = controlPart s) :
    ControlInv t := by
  cases s
  cases t
  simp only [controlPart, Prod.mk.injEq] at heq
  obtain ⟨rfl, rfl, rfl, rfl, rfl, rfl, rfl, rfl, rfl, rfl, rfl⟩ := heq
  exact ⟨h.xferConn, h.closingSend, h.connSock, h.connConfigured, h.lingerClosed, h.configLegal,
    h.timerArmed, h.timerRange⟩

theorem FormInv.of_part_eq (h : FormInv s) (heq : formPart t = formPart s) : FormInv t := by
  cases s
  cases t
  simp only [formPart, Prod.mk.injEq] at heq
  obtain ⟨rfl, rfl, rfl, rfl, rfl, rfl, rfl, rfl, rfl⟩ := heq
  exact ⟨h.txMemWf, h.delivWf, h.sndBufWf, h.rxBufWf, h.oooWf, h.txMemBound, h.delivBound,
    h.localTag, h.peerTag, h.rxSrcTag⟩

theorem EntryInv.of_part_eq {k : Nat} {e : SndEntry} (h : EntryInv s k e)
    (heq : senderPart t = senderPart s) : EntryInv t k e := by
  cases s
  cases t
  simp only [senderPart, Prod.mk.injEq] at heq
  obtain ⟨rfl, rfl, rfl, rfl, rfl, rfl, rfl, rfl, rfl, rfl, rfl, rfl⟩ := heq
  exact ⟨h.chunkOffset, h.belowNxt, h.len, h.dg⟩

theorem SenderInv.of_part_eq (h : SenderInv s) (heq : senderPart t = senderPart s) :
    SenderInv t := by
  have hentry {k e} (he : EntryInv s k e) : EntryInv t k e := he.of_part_eq heq
  cases s
  cases t
  simp only [senderPart, Prod.mk.injEq] at heq
  obtain ⟨rfl, rfl, rfl, rfl, rfl, rfl, rfl, rfl, rfl, rfl, rfl, rfl⟩ := heq
  exact ⟨h.nxtBound, h.lenBound, h.nxtChunk, h.quiet, h.notEmpty,
    fun hs k e hmem => hentry (h.entries hs k e hmem), h.window, h.windowFull, h.sawOne,
    h.contiguous⟩

theorem ReceiverInv.of_part_eq (h : ReceiverInv s) (heq : receiverPart t = receiverPart s) :
    ReceiverInv t := by
  cases s
  cases t
  simp only [receiverPart, Prod.mk.injEq] at heq
  obtain ⟨rfl, rfl, rfl, rfl, rfl, rfl, rfl, rfl⟩ := heq
  exact ⟨h.bytes, h.expBytes, h.slots, h.stored, h.buffered, h.oooOnlySr, h.quiet, h.delivered,
    h.deliveredListed⟩

end

/-! ## Outside a transfer -/

section
variable {s : State}

/-- Outside a running sender SNDBUF is empty and only the two bounds are left. -/
theorem SenderInv.of_not_sending (hquiet : ¬ Sending s) (hbuf : s.sndBuf = [])
    (hnxt : s.nxt.toNat ≤ s.txLen.toNat) (hlen : s.txLen.toNat ≤ s.params.txCap) : SenderInv s where
  nxtBound := hnxt
  lenBound := hlen
  nxtChunk := fun h => absurd h hquiet
  quiet := fun _ => hbuf
  notEmpty := fun h => absurd h hquiet
  entries := fun h => absurd h hquiet
  window := fun h => absurd h hquiet
  windowFull := fun h => absurd h hquiet
  sawOne := fun h => absurd h hquiet
  contiguous := fun h => absurd h hquiet

/-- With its buffers clear a receiver holds nothing, and only DELIV's bounds are left. -/
theorem ReceiverInv.of_clear (hexp : s.exp = 0) (hrx : s.rxBuf = []) (hooo : s.ooo = [])
    (hlen : s.delivLen.toNat ≤ s.params.rxCap)
    (hlisted : ∀ a, a < s.delivLen.toNat → hasKey a s.deliv = true) : ReceiverInv s where
  bytes := by rw [rxBytes, hrx, hooo]; exact Nat.zero_le _
  expBytes := by rw [hexp]; exact Nat.zero_le _
  slots := by rw [hooo]; exact Nat.zero_le _
  stored := fun k p hmem => absurd (hrx ▸ hmem) List.not_mem_nil
  buffered := fun k p hmem => absurd (hooo ▸ hmem) List.not_mem_nil
  oooOnlySr := fun hne => absurd hooo hne
  quiet := fun _ => ⟨hexp, hrx, hooo⟩
  delivered := hlen
  deliveredListed := hlisted

end

/-! ## RESET (R48, R300) -/

/-- State.reset with what a RESET event leaves: the parameters and what belongs to the environment.
-/
def resetWith (P : Params) (unit resets : Nat) (ans : EnvAnswer) (src : Addr) (rest : List Event) :
    State :=
  { State.reset with params := P, unit, resets, answer := ans, rxSrc := src, inputs := rest }

/-- After a reset the whole invariant holds, whatever the parameters. -/
theorem machineInv_resetWith {P : Params} (hP : P.Legal) (unit resets : Nat) (ans : EnvAnswer)
    {src : Addr} (hsrc : src.toNat < 2 ^ P.addrW) (rest : List Event) :
    MachineInv (resetWith P unit resets ans src rest) where
  params := hP
  control := by constructor <;> simp [resetWith, State.reset, timerState]
  form := by
    constructor
    case rxSrcTag => exact hsrc
    all_goals simp [resetWith, State.reset]
  sender := .of_not_sending (by simp [resetWith, State.reset]) rfl le_rfl (Nat.zero_le _)
  receiver := .of_clear rfl rfl rfl (Nat.zero_le _) fun a ha => absurd ha (Nat.not_lt_zero a)

/-- Settles O51: the reset state is a reset with R6's suggested parameters, which are legal. -/
theorem resetMeetsInvariant : Obligations.ResetMeetsInvariant := by
  unfold Obligations.ResetMeetsInvariant
  exact machineInv_resetWith (by decide) 0 0 State.reset.answer (by decide) []

/-! ## Taking an event (R8) -/

section
variable {s : State}

theorem MachineInv.taken (h : MachineInv s) (rest : List Event) (ans : EnvAnswer) {src : Addr}
    (hsrc : src.toNat < 2 ^ s.params.addrW) : MachineInv (taken rest ans src s) where
  params := h.params
  control := h.control.of_part_eq rfl
  form := by
    obtain ⟨htx, hdeliv, hsnd, hrx, hooo, htxBound, hdelivBound, hlocal, hpeer, -⟩ := h.form
    exact ⟨htx, hdeliv, hsnd, hrx, hooo, htxBound, hdelivBound, hlocal, hpeer, hsrc⟩
  sender := h.sender.of_part_eq rfl
  receiver := h.receiver.of_part_eq rfl

/-- The addresses an implementation can hold. -/
theorem MachineInv.tag (h : MachineInv s) (a : Addr) :
    (tagOf s.params a).toNat < 2 ^ s.params.addrW := by
  obtain ⟨-, -, -, -, -, -, -, -, -, -, haddr⟩ := h.params
  exact tagOf_lt s.params a haddr

end

/-! ## The step around an effect -/

/-- A state that has the fields of all four parts from another meets the invariant with it. -/
theorem MachineInv.of_parts_eq {s t : State} (h : MachineInv s)
    (hcontrol : controlPart t = controlPart s) (hform : formPart t = formPart s)
    (hsender : senderPart t = senderPart s) (hreceiver : receiverPart t = receiverPart s) :
    MachineInv t where
  params := by
    have hparams : t.params = s.params := congrArg Prod.fst hcontrol
    rw [hparams]
    exact h.params
  control := h.control.of_part_eq hcontrol
  form := h.form.of_part_eq hform
  sender := h.sender.of_part_eq hsender
  receiver := h.receiver.of_part_eq hreceiver

/-- What is true wherever the invariant is, and after every command, packet, count and expiry, is
true after every step: the other steps write none of the four parts, or reset them. -/
theorem MachineInv.step {Q : State → Prop} {s t : State} (h : MachineInv s)
    (hstep : step s = .next t) (hinv : ∀ u, MachineInv u → u.out.tx = [] → Q u)
    (hcmd : ∀ u i v, MachineInv u → u.out.tx = [] → CmdEffect u i v → Q v)
    (hpkt : ∀ u i v, MachineInv u → u.out.tx = [] → WellFormed u.params i → PktEffect u i v → Q v)
    (hcount : ∀ rest, s.tmrArmed = true → s.tmr ≠ 1 →
      Q { s with inputs := rest, out := StepOutput.none, tmr := s.tmr - 1 })
    (hexpiry : ∀ rest v, s.tmrArmed = true → ExpiryEffect (timedOut s rest) v → Q v) : Q t := by
  have hsrc := h.form.rxSrcTag
  cases stepEffect_of_step hstep with
  | command _ _ heffect => exact hcmd _ _ _ (h.taken _ _ hsrc) rfl heffect
  | packet _ hwf heffect => exact hpkt _ _ _ (h.taken _ _ (h.tag _)) rfl hwf heffect
  | dropped _ n =>
    -- a dropped datagram leaves what an ignored packet does (R263): any ignored row serves
    exact hpkt (droppedState n _ s) (.pktInvalidSynfin ⟨0, 0, false, 0, 0, []⟩) _
      (h.of_parts_eq rfl rfl rfl rfl) rfl (decide_eq_true (Nat.zero_le s.params.mpsMax))
      (.ignored _)
  | counted _ harmed hrunning => exact hcount _ harmed hrunning
  | expired _ harmed heffect => exact hexpiry _ _ harmed heffect
  | reset _ => exact hinv _ (machineInv_resetWith h.params _ _ _ hsrc _) rfl
  | idle | illegal | argument | read | passed =>
    exact hinv _ (h.of_parts_eq rfl rfl rfl rfl) rfl

end Sys2Proof.Machine
end

section
/-! SUPPORT. The frames of the two engines: which fields a sender that goes on and a data packet in
a receiver leave alone (spec/42_sender.md R190 to R206, spec/43_receiver.md R231 to R240); and the
completions and the resent FIN, field by field. -/

namespace Sys2Proof.Machine

/-! ## Senders -/

/-- Chunks were sent: SNDBUF, NXT and the outputs alone may have changed, SNDBUF by insertions. -/
inductive Chunked (s : State) : State → Prop
  | intro (b : OffsetMap SndEntry) (n : Word) (o : StepOutput)
      (wf : OffsetMap.wf s.sndBuf → OffsetMap.wf b) :
      Chunked s { s with sndBuf := b, nxt := n, out := o }

theorem Chunked.control_part_eq {s u : State} (h : Chunked s u) :
    controlPart u = controlPart s := by
  cases h
  rfl

/-- How an engine goes on after chunks: teardown, or the timer runs anew. -/
inductive SenderMove (s : State) : State → Prop
  | teardown {u : State} (chunked : Chunked s u) : SenderMove s (beginTeardown u)
  | armed {u : State} (chunked : Chunked s u) : SenderMove s (arm u)

section
variable {s : State}

theorem chunked_refl : Chunked s s := .intro s.sndBuf s.nxt s.out id

theorem Chunked.sendChunk {u : State} (h : Chunked s u) : Chunked s (sendChunk u) := by
  obtain ⟨b, n, o, hwf⟩ := h
  rw [sendChunk_eq]
  exact .intro _ _ _ fun hs => insertKey_wf (hwf hs)

theorem chunked_fillWindow : Chunked s (fillWindow s) :=
  fillRounds_keeps _ _ (fun _ _ _ h => h.sendChunk) chunked_refl

theorem startSend_move (x : Xfer) : SenderMove s (startSend x s) := by
  rw [startSend]
  split
  · exact .teardown chunked_refl
  · split
    · exact .armed chunked_refl.sendChunk
    · exact .armed chunked_fillWindow

theorem sawAdvance_move : SenderMove s (sawAdvance s) := by
  rw [sawAdvance]
  split
  · exact .armed chunked_refl.sendChunk
  · exact .teardown chunked_refl

theorem srAdvance_move (wasHead : Bool) :
    SenderMove s (srAdvance wasHead s) ∨ Chunked s (srAdvance wasHead s) := by
  simp only [srAdvance]
  split
  · exact .inl (.teardown chunked_fillWindow)
  · split
    · exact .inl (.armed chunked_fillWindow)
    · exact .inr chunked_fillWindow

end

/-- The rows of SEND start a sender, those of RECV a receiver. -/
theorem isSend_of_sendRows {i : Instr} {x : Xfer} (h : (i, x) ∈ sendRows) : x.isSend = true := by
  have hrows : ∀ r ∈ sendRows, r.2.isSend = true := by decide
  exact hrows (i, x) h

theorem isRecv_of_recvRows {i : Instr} {x : Xfer} (h : (i, x) ∈ recvRows) :
    x.isRecv = true ∧ x.isSend = false := by
  have hrows : ∀ r ∈ recvRows, r.2.isRecv = true ∧ r.2.isSend = false := by decide
  exact hrows (i, x) h

/-! ## Receivers -/

/-- The TX record of a data acknowledgement (R125). -/
def dackRecord (s : State) (a : Word) : TxRecord :=
  { bytes := frame (sentHeader s 0 a false true false) [], dest := s.peerAddr, cls := .data }

/-- Data arrived: RXBUF, OOO, EXP, RX_OVF and the outputs alone may have changed, the maps by
insertions and deletions, the TX port by acknowledgements. -/
inductive Received (s : State) : State → Prop
  | intro (r m : OffsetMap (List Byte)) (e : Word) (v : Bool) (o : StepOutput)
      (rxWf : OffsetMap.wf s.rxBuf → OffsetMap.wf r) (oooWf : OffsetMap.wf s.ooo → OffsetMap.wf m)
      (acks : ∀ x ∈ o.tx, x ∈ s.out.tx ∨ ∃ a, x = dackRecord s a) :
      Received s { s with rxBuf := r, ooo := m, exp := e, rxOvf := v, out := o }

section
variable {s u : State}

theorem received_refl : Received s s :=
  .intro s.rxBuf s.ooo s.exp s.rxOvf s.out id id fun _ hx => .inl hx

section
variable (h : Received s u)
include h

theorem Received.parts_eq : controlPart u = controlPart s ∧ senderPart u = senderPart s := by
  cases h
  exact ⟨rfl, rfl⟩

/-- The acknowledgement comes on top. -/
theorem Received.ackAfter (a : Word) : Received s (ackAfter u a) := by
  obtain ⟨r, m, e, v, o, hr, hm, ha⟩ := h
  refine .intro r m e v _ hr hm fun x hx => ?_
  obtain hold | hnew := List.mem_append.1 hx
  · exact ha x hold
  · exact .inr ⟨a, List.mem_singleton.1 hnew⟩

theorem Received.store (k : Nat) (p : List Byte) (e : Word) :
    Received s { u with rxBuf := insertKey k p u.rxBuf, exp := e } := by
  obtain ⟨r, m, _, v, o, hr, hm, ha⟩ := h
  exact .intro _ m e v o (fun hs => insertKey_wf (hr hs)) hm ha

theorem Received.wait (k : Nat) (p : List Byte) :
    Received s { u with ooo := insertKey k p u.ooo } := by
  obtain ⟨r, m, e, v, o, hr, hm, ha⟩ := h
  exact .intro r _ e v o hr (fun hs => insertKey_wf (hm hs)) ha

theorem Received.overflow : Received s { u with rxOvf := true } := by
  obtain ⟨r, m, e, _, o, hr, hm, ha⟩ := h
  exact .intro r m e true o hr hm ha

theorem Received.moveEntry (q : List Byte) : Received s (moveEntry q u) := by
  obtain ⟨r, m, e, v, o, hr, hm, ha⟩ := h
  exact .intro _ _ _ v o (fun hs => insertKey_wf (hr hs)) (fun hs => eraseKey_wf (hm hs)) ha

theorem Received.merge : Received s (merge u) := by
  have hmoves : Received s (mergeRounds u.ooo.length u) :=
    mergeRounds_keeps _ _ (fun _ q _ hv => hv.moveEntry q) h
  rw [Machine.merge]
  generalize mergeRounds u.ooo.length u = w at hmoves
  obtain ⟨r, m, e, v, o, hr, hm, ha⟩ := hmoves
  exact .intro r _ e v o hr (fun hs => (hm hs).filter _) ha

end

theorem received_dataInOrder (p : Packet) : Received s (dataInOrder p s) := by
  cases hfits : fitsRx p s with
  | false =>
    rw [dataInOrder_of_not_fits hfits]
    exact received_refl.overflow
  | true =>
    have hstored : Received s (storedAtExp p s) := received_refl.store _ _ _
    rw [dataInOrder_of_fits hfits]
    refine Received.ackAfter ?_ _
    split
    · exact hstored.merge
    · exact hstored

theorem received_dataBuffered (p : Packet) : Received s (dataBuffered p s) := by
  rw [dataBuffered]
  split
  · exact received_refl.ackAfter _
  · split
    · exact (received_refl.wait _ _).ackAfter _
    · exact received_refl

theorem received_dataDuplicate (p : Packet) : Received s (dataDuplicate p s) := by
  rw [dataDuplicate]
  split
  · exact received_refl.ackAfter _
  · refine Received.ackAfter ?_ _
    split
    · exact received_refl.store _ _ s.exp
    · exact received_refl.overflow

/-- A data packet touches the receiver's buffers and the outputs alone. -/
theorem received_dataInRecv (p : Packet) : Received s (dataInRecv p s) := by
  rw [dataInRecv]
  split
  · exact received_dataInOrder p
  · split
    · split
      · exact received_dataBuffered p
      · exact received_refl
    · exact received_dataDuplicate p

end

/-! ## Completions and the resent FIN, field by field (R161, R163, R165, R167, R239) -/

theorem synackInSynSent_eq (p : Packet) (s : State) :
    synackInSynSent p s =
      { s with
        hsNxt := p.seq + 1
        connState := .established
        tmrArmed := false
        code := .ok
        out := { s.out with
          tx := s.out.tx ++
            [{ bytes := frame (sentHeader s 0 (p.seq + 1) false true false) []
               dest := s.peerAddr
               cls := .hs }]
          hooks := s.out.hooks ++ [.done .ok] } } := by
  rw [synackInSynSent, finish_eq]
  simp only [disarm, emit, hsackPkt, txHeader]

theorem finackInClosing_eq (s : State) :
    finackInClosing s =
      { s with
        sockOpen := false
        connState := .closed
        xfer := .idle
        tmrArmed := false
        txLen := 0
        nxt := 0
        sndBuf := []
        hsNxt := 0
        code := .ok
        out := { s.out with hooks := s.out.hooks ++ [.done .ok], xferReset := true } } := by
  rw [finackInClosing, finish_eq]
  simp only [pulseXferReset, clearSender, disarm]

theorem expireSynSent_eq (s : State) :
    expireSynSent s =
      { s with
        connState := .closed
        tmrArmed := false
        code := .connectFail
        out := { s.out with hooks := s.out.hooks ++ [.done .connectFail] } } := by
  rw [expireSynSent, finish_eq, disarm]

theorem expireClosing_eq (s : State) :
    expireClosing s =
      { s with
        tmr := s.cfgRto
        tmrArmed := true
        out := { s.out with
          tx := s.out.tx ++
            [{ bytes := frame (sentHeader s s.txLen s.hsNxt false false true) []
               dest := s.peerAddr
               cls := .data }]
          hooks := s.out.hooks ++ [.finRetx s.txLen] } } := by
  rw [expireClosing]
  simp only [arm, pushHook, emit, finPkt, txHeader]

/-- The code a receiver completes with (R239). -/
def recvCode (s : State) : ResultCode := if s.rxOvf then .rxOverflow else .ok

theorem finInRecv_eq (p : Packet) (s : State) :
    finInRecv p s =
      { s with
        deliv := writeBytes 0 (flatten s.rxBuf) s.deliv
        delivLen := BitVec.ofNat 32 (flatten s.rxBuf).length
        rxBuf := []
        ooo := []
        exp := 0
        connState := .closed
        xfer := .idle
        linger := true
        code := recvCode s
        out := { s.out with
          tx := s.out.tx ++
            [{ bytes := frame (sentHeader s 0 p.seq false true true) []
               dest := s.peerAddr
               cls := .data }]
          hooks := s.out.hooks ++ [.done (recvCode s)]
          xferReset := true } } := by
  rw [finInRecv, finish_eq]
  rfl

end Sys2Proof.Machine
end

section
/-! SUPPORT. The control invariant (spec/10_state.md R20, R30; spec/41_lifecycle.md R170): what a
connection state needs, and that every step keeps it and the timer's table. -/

namespace Sys2Proof.Machine

/-! ## What a connection state needs -/

/-- The configuration's legal values (R20). -/
abbrev LegalConfig (s : State) : Prop :=
  1 ≤ s.cfgMps.toNat ∧ s.cfgMps.toNat ≤ s.params.mpsMax ∧
    1 ≤ s.cfgWin.toNat ∧ s.cfgWin.toNat ≤ s.params.wMax ∧ 1 ≤ s.cfgRto.toNat

/-- What every state but CLOSED has: a socket and a legal configuration, and no linger. -/
structure OpenConn (s : State) : Prop where
  sock : s.sockOpen = true
  valid : s.cfgValid = true
  noLinger : s.linger = false
  config : LegalConfig s

section
variable {s : State}

theorem ControlInv.openConn (h : ControlInv s) (hc : s.connState ≠ .closed) : OpenConn s where
  sock := h.connSock hc
  valid := h.connConfigured hc
  noLinger := by
    rw [← Bool.not_eq_true]
    exact fun hlinger => hc (h.lingerClosed hlinger).1
  config := h.configLegal (h.connConfigured hc)

/-- Only ESTABLISHED and CLOSING run an engine. -/
theorem ControlInv.xfer_idle (h : ControlInv s)
    (hc : s.connState ≠ .established ∧ s.connState ≠ .closing) : s.xfer = .idle := by
  by_contra hx
  obtain hest | hclosing := h.xferConn hx
  · exact hc.1 hest
  · exact hc.2 hclosing

/-- An idle RTE is CLOSED or ESTABLISHED with no engine, so its timer is disarmed (R27, R170). -/
theorem ControlInv.of_idle (h : ControlInv s) (hidle : busy s = false) :
    s.xfer = .idle ∧ timerState s = false ∧ s.tmrArmed = false := by
  have hnot := (busy_iff s).not.1 (by rw [hidle]; decide)
  simp only [not_or, not_not] at hnot
  obtain ⟨hlisten, hsent, hreceived, hx⟩ := hnot
  have htimer : timerState s = false := by
    rw [timerState]
    cases hc : s.connState
    case closed => rfl
    case established => simp only [hx]; rfl
    case closing => have hsend := h.closingSend hc; rw [hx] at hsend; cases hsend
    all_goals contradiction
  exact ⟨hx, htimer, h.timerArmed.trans htimer⟩

/-- A state whose timer runs anew (R266). -/
theorem OpenConn.armed (h : OpenConn s) (htimer : timerState s = true)
    (hx : s.xfer ≠ .idle → s.connState = .established ∨ s.connState = .closing)
    (hclosing : s.connState = .closing → s.xfer.isSend = true) : ControlInv (arm s) where
  xferConn := hx
  closingSend := hclosing
  connSock := fun _ => h.sock
  connConfigured := fun _ => h.valid
  lingerClosed := fun hlinger => absurd (h.noLinger.symm.trans hlinger) Bool.false_ne_true
  configLegal := fun _ => h.config
  timerArmed := htimer.symm
  timerRange := fun _ => by
    obtain ⟨-, -, -, -, hrto⟩ := h.config
    exact ⟨hrto, le_rfl⟩

/-- ESTABLISHED with no sender: the timer is disarmed (R170). -/
theorem OpenConn.established (h : OpenConn s) (hc : s.connState = .established)
    (hx : s.xfer.isSend = false) (harmed : s.tmrArmed = false) : ControlInv s where
  xferConn := fun _ => .inl hc
  closingSend := fun hclosing => by rw [hc] at hclosing; cases hclosing
  connSock := fun _ => h.sock
  connConfigured := fun _ => h.valid
  lingerClosed := fun hlinger => absurd (h.noLinger.symm.trans hlinger) Bool.false_ne_true
  configLegal := fun _ => h.config
  timerArmed := by rw [harmed, timerState, hc, hx]
  timerRange := fun htrue => absurd (harmed.symm.trans htrue) Bool.false_ne_true

/-- CLOSED: no engine, no timer, and linger only with the socket open (R170). -/
theorem ControlInv.of_closed (hc : s.connState = .closed) (hx : s.xfer = .idle)
    (hlinger : s.linger = true → s.sockOpen = true) (hconfig : s.cfgValid = true → LegalConfig s)
    (harmed : s.tmrArmed = false) : ControlInv s where
  xferConn := fun hne => absurd hx hne
  closingSend := fun hclosing => by rw [hc] at hclosing; cases hclosing
  connSock := fun hne => absurd hc hne
  connConfigured := fun hne => absurd hc hne
  lingerClosed := fun hl => ⟨hc, hlinger hl⟩
  configLegal := hconfig
  timerArmed := by rw [harmed, timerState, hc]
  timerRange := fun htrue => absurd (harmed.symm.trans htrue) Bool.false_ne_true

/-- Re-arming a timer that runs (R144). -/
theorem ControlInv.rearmed (h : ControlInv s) (htimer : timerState s = true) :
    ControlInv (arm s) :=
  (h.openConn fun hc => by rw [timerState, hc] at htimer; cases htimer).armed htimer h.xferConn
    h.closingSend

/-- R144 restarts only timers that run. -/
theorem timerState_of_waitRestarts (h : waitRestarts s = true) : timerState s = true := by
  rw [waitRestarts] at h
  rw [timerState]
  cases hc : s.connState
  case closed => rw [hc] at h; cases h
  case established =>
    simp only [hc] at h
    revert h
    cases s.xfer <;> decide
  all_goals rfl

theorem ControlInv.ignorePacket (h : ControlInv s) : ControlInv (ignorePacket s) := by
  rw [Machine.ignorePacket, restartWait]
  split
  · next hwait => exact h.rearmed (timerState_of_waitRestarts hwait)
  · exact h

/-- An engine that goes on runs the timer anew, or closes the connection with the timer running. -/
theorem SenderMove.controlInv {t : State} (hmove : SenderMove s t) (h : OpenConn s)
    (hs : Sending s) : ControlInv t := by
  obtain ⟨hsock, hvalid, hlinger, hconfig⟩ := h
  obtain ⟨hc, hx⟩ := hs
  cases hmove with
  | teardown hchunked =>
    cases hchunked
    exact OpenConn.armed ⟨hsock, hvalid, hlinger, hconfig⟩ rfl (fun _ => .inr rfl) fun _ => hx
  | armed hchunked =>
    cases hchunked
    refine OpenConn.armed ⟨hsock, hvalid, hlinger, hconfig⟩ ?_ (fun _ => .inl hc) fun _ => hx
    simp only [timerState, hc, hx]

end

/-! ## Every step keeps it -/

section
variable {s t : State} {i : Instr}

theorem CmdEffect.controlInv (he : CmdEffect s i t) (h : ControlInv s) : ControlInv t := by
  cases he with
  | answered | read | written => exact h.of_part_eq rfl
  | configured hidle hlegal =>
    obtain ⟨-, htimer, harmed⟩ := h.of_idle hidle
    have hconfig : LegalConfig (configureHandler { s with code := .ok }) := by
      simp only [configLegal, Bool.and_eq_true, decide_eq_true_eq, and_assoc] at hlegal
      exact hlegal
    exact ⟨h.xferConn, h.closingSend, h.connSock, fun _ => rfl, h.lingerClosed, fun _ => hconfig,
      h.timerArmed, fun htrue => absurd (harmed.symm.trans htrue) Bool.false_ne_true⟩
  | bound _ =>
    exact ⟨h.xferConn, h.closingSend, fun _ => rfl, h.connConfigured, nofun, h.configLegal,
      h.timerArmed, h.timerRange⟩
  | listening hidle hsock _ hvalid =>
    obtain ⟨hx, -, -⟩ := h.of_idle hidle
    exact OpenConn.armed ⟨hsock, hvalid, rfl, h.configLegal hvalid⟩ rfl (fun hne => absurd hx hne)
      nofun
  | connecting hidle _ hvalid =>
    obtain ⟨hx, -, -⟩ := h.of_idle hidle
    exact OpenConn.armed ⟨rfl, hvalid, rfl, h.configLegal hvalid⟩ rfl (fun hne => absurd hx hne)
      nofun
  | sending hrow hidle hconn hvalid _ =>
    obtain ⟨hsock, -, hlinger, hconfig⟩ := h.openConn (by rw [hconn]; decide)
    exact (startSend_move _).controlInv ⟨hsock, hvalid, hlinger, hconfig⟩
      ⟨hconn, isSend_of_sendRows hrow⟩
  | receiving hrow hidle hconn hvalid =>
    obtain ⟨hsock, -, -, hconfig⟩ := h.openConn (by rw [hconn]; decide)
    exact OpenConn.established ⟨hsock, hvalid, rfl, hconfig⟩ hconn
      (isRecv_of_recvRows hrow).2 rfl
  | closed => exact .of_closed rfl rfl nofun h.configLegal rfl

theorem PktEffect.controlInv (he : PktEffect s i t) (h : ControlInv s) : ControlInv t := by
  have openConn {c : ConnState} (hc : s.connState = c) (hne : c ≠ .closed) : OpenConn s :=
    h.openConn (by rw [hc]; exact hne)
  have idle {c : ConnState} (hc : s.connState = c) (hne : c ≠ .established ∧ c ≠ .closing) :
      s.xfer = .idle := h.xfer_idle (by rw [hc]; exact hne)
  cases he with
  | ignored => exact h.ignorePacket
  | syn p hc =>
    obtain ⟨hsock, hvalid, hlinger, hconfig⟩ := openConn hc (by decide)
    exact OpenConn.armed ⟨hsock, hvalid, hlinger, hconfig⟩ rfl
      (fun hne => absurd (idle hc (by decide)) hne) nofun
  | accepted _ hc =>
    obtain ⟨hsock, hvalid, hlinger, hconfig⟩ := openConn hc (by decide)
    have hx := idle hc (by decide)
    exact OpenConn.established ⟨hsock, hvalid, hlinger, hconfig⟩ rfl (congrArg Xfer.isSend hx) rfl
  | synack p hc =>
    obtain ⟨hsock, hvalid, hlinger, hconfig⟩ := openConn hc (by decide)
    have hx := idle hc (by decide)
    rw [synackInSynSent_eq]
    exact OpenConn.established ⟨hsock, hvalid, hlinger, hconfig⟩ rfl (congrArg Xfer.isSend hx) rfl
  | finack _ hc =>
    obtain ⟨-, -, hlinger, hconfig⟩ := openConn hc (by decide)
    rw [finackInClosing_eq]
    exact .of_closed rfl rfl (fun hl => absurd (hlinger.symm.trans hl) Bool.false_ne_true)
      (fun _ => hconfig) rfl
  | lingerFin => exact h.of_part_eq rfl
  | recvFin _ hrecv =>
    obtain ⟨hsock, -, -, hconfig⟩ := openConn hrecv.1 (by decide)
    obtain ⟨hc, hx⟩ := hrecv
    have hdisarmed : s.tmrArmed = false := by
      rw [h.timerArmed, timerState, hc]
      revert hx
      cases s.xfer <;> decide
    rw [finInRecv_eq]
    exact .of_closed rfl rfl (fun _ => hsock) (fun _ => hconfig) hdisarmed
  | data _ p => exact h.of_part_eq (received_dataInRecv p).parts_eq.1
  | sawAcked _ hc hx k =>
    have hdropped : ControlInv (dropEntry k s) := h.of_part_eq rfl
    exact sawAdvance_move.controlInv (hdropped.openConn (by simp [hc]))
      ⟨hc, by simp [hx, Xfer.isSend]⟩
  | acked _ hs _ k _ wasHead =>
    have hdropped : ControlInv (dropEntry k s) := h.of_part_eq rfl
    obtain hmove | hchunked := srAdvance_move (s := dropEntry k s) wasHead
    · exact hmove.controlInv (hdropped.openConn (by simp [hs.1])) hs
    · exact hdropped.of_part_eq hchunked.control_part_eq

/-- An expiry ends with the timer running anew, but in SYN_SENT, whose attempt fails (R163). -/
theorem ExpiryEffect.controlInv {rest : List Event} (he : ExpiryEffect (timedOut s rest) t)
    (h : ControlInv s) (harmed : s.tmrArmed = true) : ControlInv t := by
  have htimer : timerState s = true := h.timerArmed.symm.trans harmed
  have hne : s.connState ≠ .closed := fun hc => by rw [timerState, hc] at htimer; cases htimer
  obtain ⟨hsock, hvalid, hlinger, hconfig⟩ := h.openConn hne
  cases he with
  | none hquiet => exact absurd (htimer.symm.trans hquiet) (by decide)
  | listen hc =>
    exact OpenConn.armed ⟨hsock, hvalid, hlinger, hconfig⟩ htimer h.xferConn h.closingSend
  | synReceived hc =>
    have hx : s.xfer = .idle := h.xfer_idle (by rw [show s.connState = _ from hc]; decide)
    exact OpenConn.armed ⟨hsock, hvalid, hlinger, hconfig⟩ rfl (fun hne => absurd hx hne) nofun
  | synSent hc =>
    have hx : s.xfer = .idle := h.xfer_idle (by rw [show s.connState = _ from hc]; decide)
    rw [expireSynSent_eq]
    exact .of_closed rfl hx (fun _ => hsock) (fun _ => hconfig) rfl
  | closing hc =>
    exact OpenConn.armed ⟨hsock, hvalid, hlinger, hconfig⟩ htimer h.xferConn h.closingSend
  | resent _ l =>
    rw [retransmitAll_eq]
    exact OpenConn.armed ⟨hsock, hvalid, hlinger, hconfig⟩ htimer h.xferConn h.closingSend

end

/-- Settles O52: by what each event can do; a tick that counts down stays above 0. -/
theorem stepKeepsControlInvariant : Obligations.StepKeepsControlInvariant := by
  unfold Obligations.StepKeepsControlInvariant
  intro s t h hstep
  refine h.step hstep (fun u hu _ => hu.control) (fun u i v hu _ he => he.controlInv hu.control)
    (fun u i v hu _ _ he => he.controlInv hu.control) (fun rest harmed hrunning => ?counted)
    (fun rest v harmed he => he.controlInv h.control harmed)
  case counted =>
    obtain ⟨hxfer, hclosing, hsock, hconn, hlinger, hconfig, htimer, hrange⟩ := h.control
    refine ⟨hxfer, hclosing, hsock, hconn, hlinger, hconfig, htimer, fun _ => ?_⟩
    obtain ⟨hpos, hle⟩ := hrange harmed
    have hcount : (s.tmr - 1).toNat = s.tmr.toNat - 1 := by bv_omega
    have hne : s.tmr.toNat ≠ 1 := fun h => hrunning (BitVec.eq_of_toNat_eq h)
    simp only [hcount]
    omega

end Sys2Proof.Machine
end

section
/-! SUPPORT. The canonical form of the memories and the maps and the width of the address tags
(spec/10_state.md R32, R36 to R43), kept by every step. -/

namespace Sys2Proof.Machine

section
variable {s t : State} {i : Instr}

/-- 0 is an address tag. -/
theorem zero_isTag (n : Nat) : (0 : Addr).toNat < 2 ^ n := Nat.two_pow_pos n

/-- A state with other buffers in canonical form. -/
theorem FormInv.of_buffers (h : FormInv s) {b : OffsetMap SndEntry} {r m : OffsetMap (List Byte)}
    (hb : OffsetMap.wf b) (hr : OffsetMap.wf r) (hm : OffsetMap.wf m) :
    FormInv { s with sndBuf := b, rxBuf := r, ooo := m } :=
  ⟨h.txMemWf, h.delivWf, hb, hr, hm, h.txMemBound, h.delivBound, h.localTag, h.peerTag,
    h.rxSrcTag⟩

/-- A state with other tags of ADDR_W bits. -/
theorem FormInv.of_tags (h : FormInv s) {l p : Addr} (hl : l.toNat < 2 ^ s.params.addrW)
    (hp : p.toNat < 2 ^ s.params.addrW) : FormInv { s with localAddr := l, peerAddr := p } :=
  ⟨h.txMemWf, h.delivWf, h.sndBufWf, h.rxBufWf, h.oooWf, h.txMemBound, h.delivBound, hl, hp,
    h.rxSrcTag⟩

theorem Chunked.formInv (hc : Chunked s t) (h : FormInv s) : FormInv t := by
  obtain ⟨b, n, o, hwf⟩ := hc
  exact (h.of_buffers (hwf h.sndBufWf) h.rxBufWf h.oooWf).of_part_eq rfl

theorem SenderMove.formInv (hmove : SenderMove s t) (h : FormInv s) : FormInv t := by
  cases hmove with
  | teardown hchunked => exact (hchunked.formInv h).of_part_eq rfl
  | armed hchunked => exact (hchunked.formInv h).of_part_eq rfl

theorem Received.formInv (hr : Received s t) (h : FormInv s) : FormInv t := by
  obtain ⟨r, m, e, v, o, hrx, hooo, -⟩ := hr
  exact (h.of_buffers h.sndBufWf (hrx h.rxBufWf) (hooo h.oooWf)).of_part_eq rfl

theorem ignorePacket_formPart (s : State) : formPart (ignorePacket s) = formPart s := by
  simp [formPart]

theorem FormInv.dropEntry (h : FormInv s) (k : Nat) : FormInv (dropEntry k s) :=
  (h.of_buffers (eraseKey_wf h.sndBufWf) h.rxBufWf h.oooWf).of_part_eq rfl

theorem CmdEffect.formInv (he : CmdEffect s i t) (hinv : MachineInv s) : FormInv t := by
  have h := hinv.form
  cases he with
  | answered | read | configured => exact h.of_part_eq rfl
  | bound _ => exact (h.of_tags (hinv.tag (opAddr64 s)) h.peerTag).of_part_eq rfl
  | listening => exact (h.of_tags h.localTag (zero_isTag _)).of_part_eq rfl
  | connecting _ _ _ tag htag =>
    have hlocal : tag.toNat < 2 ^ s.params.addrW := by
      obtain rfl | ⟨e, rfl⟩ := htag
      · exact h.localTag
      · exact hinv.tag e
    have hcleared := h.of_buffers (b := []) .nil h.rxBufWf h.oooWf
    exact (hcleared.of_tags hlocal (hinv.tag (opAddr64 s))).of_part_eq rfl
  | sending =>
    have hbegun := h.of_buffers (b := []) .nil h.rxBufWf h.oooWf
    exact (startSend_move _).formInv (hbegun.of_part_eq rfl)
  | receiving => exact (h.of_buffers (r := []) (m := []) h.sndBufWf .nil .nil).of_part_eq rfl
  | closed => exact (h.of_buffers (b := []) (r := []) (m := []) .nil .nil .nil).of_part_eq rfl
  | written _ hrange =>
    refine ⟨wrtx_wf h.txMemWf, h.delivWf, h.sndBufWf, h.rxBufWf, h.oooWf, fun c hc => ?_,
      h.delivBound, h.localTag, h.peerTag, h.rxSrcTag⟩
    obtain rfl | hold := mem_insertKey hc
    · exact hrange
    · exact h.txMemBound c hold

theorem PktEffect.formInv (he : PktEffect s i t) (hinv : MachineInv s) : FormInv t := by
  have h := hinv.form
  cases he with
  | ignored => exact h.of_part_eq (ignorePacket_formPart s)
  | syn => exact (h.of_tags h.localTag h.rxSrcTag).of_part_eq rfl
  | accepted | lingerFin => exact h.of_part_eq rfl
  | synack => rw [synackInSynSent_eq]; exact h.of_part_eq rfl
  | finack =>
    rw [finackInClosing_eq]
    exact (h.of_buffers (b := []) .nil h.rxBufWf h.oooWf).of_part_eq rfl
  | recvFin =>
    rw [finInRecv_eq]
    refine ⟨h.txMemWf, deliver_wf h.delivWf, h.sndBufWf, .nil, .nil, h.txMemBound, fun c hc => ?_,
      h.localTag, h.peerTag, h.rxSrcTag⟩
    obtain hold | ⟨-, hlt⟩ := mem_writeBytes hc
    · exact h.delivBound c hold
    · have hlen := (length_flatten_rxBuf_le s).trans hinv.receiver.bytes
      exact (Nat.zero_add _ ▸ hlt).trans_le hlen
  | data _ p => exact (received_dataInRecv p).formInv h
  | sawAcked => exact sawAdvance_move.formInv (h.dropEntry _)
  | acked _ _ _ _ _ wasHead =>
    obtain hmove | hchunked := srAdvance_move wasHead
    · exact hmove.formInv (h.dropEntry _)
    · exact hchunked.formInv (h.dropEntry _)

theorem ExpiryEffect.formInv {rest : List Event} (he : ExpiryEffect (timedOut s rest) t)
    (h : FormInv s) : FormInv t := by
  cases he with
  | none | listen => exact h.of_part_eq rfl
  | closing => rw [expireClosing_eq]; exact h.of_part_eq rfl
  | synSent => rw [expireSynSent_eq]; exact h.of_part_eq rfl
  | synReceived => exact (h.of_tags h.localTag (zero_isTag _)).of_part_eq rfl
  | resent => rw [retransmitAll_eq]; exact h.of_part_eq rfl

end

/-- Settles O53: by what each event can do; the maps change by insertions and deletions, the
memories within their bounds, and every tag is cut to ADDR_W bits. -/
theorem stepKeepsFormInvariant : Obligations.StepKeepsFormInvariant := by
  unfold Obligations.StepKeepsFormInvariant
  intro s t h hstep
  exact h.step hstep (fun u hu _ => hu.form) (fun u i v hu _ he => he.formInv hu)
    (fun u i v hu _ _ he => he.formInv hu) (fun rest _ _ => h.form.of_part_eq rfl)
    (fun rest v _ he => he.formInv h.form)

end Sys2Proof.Machine
end

section
/-! SUPPORT. The sender's invariant (spec/10_state.md R35, R36; spec/42_sender.md R190 to R207):
what SNDBUF holds while chunks are sent, and that every step keeps it. -/

namespace Sys2Proof.Machine

/-! ## While chunks are sent -/

/-- What every sent chunk and every removal keeps, whether or not the window is full: NXT is a chunk
boundary or the end, and SNDBUF holds chunks below it, contiguously but under SR. -/
structure Filling (s : State) : Prop where
  mps : 1 ≤ s.cfgMps.toNat
  win : 1 ≤ s.cfgWin.toNat
  nxtBound : s.nxt.toNat ≤ s.txLen.toNat
  lenBound : s.txLen.toNat ≤ s.params.txCap
  nxtChunk : s.nxt = s.txLen ∨ s.nxt.toNat % s.cfgMps.toNat = 0
  wf : OffsetMap.wf s.sndBuf
  entries : ∀ c ∈ s.sndBuf, EntryInv s c.1 c.2
  window : s.sndBuf.length ≤ s.cfgWin.toNat
  contiguous : s.xfer ≠ .sendSr → ∀ c ∈ s.sndBuf, ∀ o, c.1 ≤ o → o < s.nxt.toNat →
    o % s.cfgMps.toNat = 0 → hasKey o s.sndBuf = true

section
variable {s : State}

/-- A running sender is such a state. -/
theorem MachineInv.filling (h : MachineInv s) (hs : Sending s) : Filling s := by
  have hconn := h.control.openConn (by rw [hs.1]; decide)
  obtain ⟨hmps, -, hwin, -, -⟩ := hconn.config
  have hsender := h.sender
  exact ⟨hmps, hwin, hsender.nxtBound, hsender.lenBound, hsender.nxtChunk hs, h.form.sndBufWf,
    fun c hc => hsender.entries hs c.1 c.2 hc, hsender.window hs,
    fun hx c hc => hsender.contiguous hs hx c.1 c.2 hc⟩

/-- So is a sender that has just begun. -/
theorem filling_sendBegun {x : Xfer} (hconfig : LegalConfig s)
    (hlen : s.arg0.toNat ≤ s.params.txCap) : Filling (sendBegun x s) where
  mps := hconfig.1
  win := by
    obtain ⟨-, -, hwin, -, -⟩ := hconfig
    exact hwin
  nxtBound := Nat.zero_le _
  lenBound := hlen
  nxtChunk := .inr (Nat.zero_mod _)
  wf := .nil
  entries := nofun
  window := Nat.zero_le _
  contiguous := nofun

section
variable (h : Filling s)
include h

/-- SNDBUF has no entry at NXT. -/
theorem Filling.nxt_new : hasKey s.nxt.toNat s.sndBuf = false := by
  rw [← Bool.not_eq_true, hasKey, Option.isSome_iff_exists]
  rintro ⟨e, he⟩
  exact absurd (h.entries _ (lookupKey_mem he)).belowNxt (lt_irrefl _)

/-- A chunk boundary with bytes unsent behind it. -/
theorem Filling.nxt_boundary (hunsent : s.nxt < s.txLen) :
    s.nxt.toNat % s.cfgMps.toNat = 0 :=
  h.nxtChunk.resolve_left (BitVec.ne_of_lt hunsent)

/-- Sending the chunk at NXT keeps all of it. -/
theorem Filling.sendChunk (hroom : s.sndBuf.length < s.cfgWin.toNat) (hunsent : s.nxt < s.txLen) :
    Filling (sendChunk s) := by
  have hboundary := h.nxt_boundary hunsent
  have hnxt := sendChunk_nxt s h.nxtBound
  have hlt : s.nxt.toNat < s.txLen.toNat := hunsent
  have hmps := h.mps
  have hgrows : s.nxt.toNat < (Machine.sendChunk s).nxt.toNat := by omega
  constructor
  case mps => exact h.mps
  case win => exact h.win
  case nxtBound =>
    rw [hnxt]
    exact Nat.min_le_left _ _
  case lenBound => exact h.lenBound
  case nxtChunk =>
    by_cases hend : s.txLen.toNat ≤ s.nxt.toNat + s.cfgMps.toNat
    · exact .inl (BitVec.eq_of_toNat_eq (by rw [hnxt]; exact Nat.min_eq_left hend))
    · right
      rw [hnxt, Nat.min_eq_right (Nat.le_of_not_le hend)]
      exact (Nat.add_mod_right _ _).trans hboundary
  case wf => exact insertKey_wf h.wf
  case entries =>
    intro c hc
    obtain rfl | hold := mem_insertKey hc
    · refine ⟨hboundary, hgrows, ?_, rfl⟩
      change (BitVec.ofNat 16 (min s.cfgMps.toNat (s.txLen.toNat - s.nxt.toNat))).toNat = _
      rw [BitVec.toNat_ofNat]
      exact Nat.mod_eq_of_lt ((Nat.min_le_left _ _).trans_lt s.cfgMps.isLt)
    · obtain ⟨hoffset, hbelow, hlen, hdg⟩ := h.entries c hold
      exact ⟨hoffset, hbelow.trans hgrows, hlen, hdg⟩
  case window =>
    have hgrown : (Machine.sendChunk s).sndBuf.length = s.sndBuf.length + 1 :=
      length_insertKey h.nxt_new
    rw [hgrown]
    exact hroom
  case contiguous =>
    intro hx c hc o hle hoff hmod
    have hkey : hasKey o (Machine.sendChunk s).sndBuf = (o == s.nxt.toNat || hasKey o s.sndBuf) :=
      hasKey_insertKey _ _ _ _
    rw [hkey, Bool.or_eq_true, beq_iff_eq]
    by_cases ho : o < s.nxt.toNat
    · right
      obtain rfl | hold := mem_insertKey hc
      · exact absurd hle (Nat.not_le.2 ho)
      · exact h.contiguous hx c hold o hle ho hmod
    · left
      have hsame : (o - s.nxt.toNat) % s.cfgMps.toNat = 0 :=
        Nat.sub_mod_eq_zero_of_mod_eq (Eq.trans hmod hboundary.symm)
      rw [hnxt] at hoff
      rw [Nat.mod_eq_of_lt (by omega)] at hsame
      omega

/-- Filling the window keeps all of it. -/
theorem Filling.fillWindow : Filling (fillWindow s) :=
  fillRounds_keeps _ _ (fun _ hroom hunsent hu => hu.sendChunk hroom hunsent) h

/-- `FillWindow()` stops with the window full or every byte sent. -/
theorem Filling.fillWindow_stops :
    (Machine.fillWindow s).sndBuf.length = (Machine.fillWindow s).cfgWin.toNat ∨
      (Machine.fillWindow s).nxt = (Machine.fillWindow s).txLen := by
  obtain ⟨n, hfill, -, hstop⟩ := fillRounds_spec (s.txLen.toNat - s.nxt.toNat) s h.mps h.nxtBound
    le_rfl
  have hwindow := h.fillWindow.window
  obtain ⟨hwin, htxLen⟩ : (Machine.fillWindow s).cfgWin = s.cfgWin ∧
      (Machine.fillWindow s).txLen = s.txLen := by
    obtain ⟨b, m, t, hframe⟩ := fillWindow_frame s
    rw [hframe]
    exact ⟨rfl, rfl⟩
  rw [← hfill] at hstop
  rw [hwin] at hwindow ⊢
  rw [htxLen]
  exact hstop.imp_left fun hfull => Nat.le_antisymm hwindow hfull

/-- Removing an entry keeps all of it, if outside SR it is the oldest. -/
theorem Filling.dropEntry {k : Nat} (hhead : s.xfer ≠ .sendSr → isHead k s.sndBuf = true) :
    Filling (dropEntry k s) := by
  have hsub : ∀ c ∈ eraseKey k s.sndBuf, c ∈ s.sndBuf := fun c => mem_eraseKey
  constructor
  case mps => exact h.mps
  case win => exact h.win
  case nxtBound => exact h.nxtBound
  case lenBound => exact h.lenBound
  case nxtChunk => exact h.nxtChunk
  case wf => exact eraseKey_wf h.wf
  case entries =>
    intro c hc
    obtain ⟨hoffset, hbelow, hlen, hdg⟩ := h.entries c (hsub c hc)
    exact ⟨hoffset, hbelow, hlen, hdg⟩
  case window =>
    have hshrinks : (eraseKey k s.sndBuf).length ≤ s.sndBuf.length := by
      rw [eraseKey_eq_filter h.wf]
      exact List.length_filter_le _ _
    exact hshrinks.trans h.window
  case contiguous =>
    intro hx c hc o hle ho hmod
    have hkey := h.contiguous hx c (hsub c hc) o hle ho hmod
    have habove : k < c.1 := by
      have hfirst := hhead hx
      have hwf := h.wf
      cases hbuf : s.sndBuf with
      | nil => rw [hbuf] at hfirst; cases hfirst
      | cons x rest =>
        rw [hbuf] at hfirst hwf
        have hxk : k = x.1 := beq_iff_eq.1 hfirst
        rw [Machine.dropEntry, hbuf, eraseKey, if_pos hxk] at hc
        rw [hxk]
        exact (List.pairwise_cons.1 hwf).1 c hc
    have hne : o ≠ k := by omega
    change hasKey o (eraseKey k s.sndBuf) = true
    rwa [hasKey, lookupKey_eraseKey h.wf, if_neg hne]

/-- With a full window, or all sent, it is the invariant of a running sender. -/
theorem Filling.senderInv (hs : Sending s) (hne : s.sndBuf ≠ [])
    (hfull : s.xfer ≠ .sendSaw → s.sndBuf.length = s.cfgWin.toNat ∨ s.nxt = s.txLen)
    (hone : s.xfer = .sendSaw → s.sndBuf.length = 1) : SenderInv s where
  nxtBound := h.nxtBound
  lenBound := h.lenBound
  nxtChunk := fun _ => h.nxtChunk
  quiet := fun hquiet => absurd hs hquiet
  notEmpty := fun _ => hne
  entries := fun _ k e hc => h.entries (k, e) hc
  window := fun _ => h.window
  windowFull := fun _ => hfull
  sawOne := fun _ => hone
  contiguous := fun _ hx k e hc => h.contiguous hx (k, e) hc

end

end

/-! ## Engines that go on (R196, R201, R206) -/

section
variable {s : State}

theorem Chunked.sending {u : State} (h : Chunked s u) (hs : Sending s) :
    Sending u ∧ u.xfer = s.xfer := by
  obtain ⟨b, n, o, -⟩ := h
  exact ⟨hs, rfl⟩

/-- In CLOSING SNDBUF is empty. -/
theorem Filling.beginTeardown (h : Filling s) (hbuf : s.sndBuf = []) :
    SenderInv (beginTeardown s) :=
  .of_not_sending (fun hs => ConnState.noConfusion hs.1) hbuf h.nxtBound h.lenBound

/-- With bytes unsent SAW sends the next chunk behind an empty SNDBUF. -/
theorem Filling.sendChunk_saw (h : Filling s) (hs : Sending s) (hx : s.xfer = .sendSaw)
    (hbuf : s.sndBuf = []) (hunsent : s.nxt < s.txLen) : SenderInv (arm (Machine.sendChunk s)) := by
  have hwin := h.win
  have hsent := h.sendChunk (by rw [hbuf]; exact hwin) hunsent
  have hone : (Machine.sendChunk s).sndBuf.length = 1 := by
    rw [sendChunk_eq, hbuf]
    rfl
  have hinv : SenderInv (Machine.sendChunk s) := hsent.senderInv hs
    (fun hnil => by rw [hnil] at hone; cases hone) (fun hne => absurd hx hne) (fun _ => hone)
  exact hinv.of_part_eq rfl

/-- An engine other than SAW that has filled the window and is not done is a running sender. -/
theorem Filling.fillWindow_senderInv (h : Filling s) (hs : Sending s) (hx : s.xfer ≠ .sendSaw)
    (hnotDone : sendDone (Machine.fillWindow s) = false) : SenderInv (Machine.fillWindow s) := by
  obtain ⟨hsending, hxfer⟩ := (chunked_fillWindow (s := s)).sending hs
  have hstops := h.fillWindow_stops
  refine h.fillWindow.senderInv hsending (fun hnil => ?_) (fun _ => hstops)
    fun hsaw => absurd (hxfer.symm.trans hsaw) hx
  obtain hfull | hsent := hstops
  · have hwin := h.fillWindow.win
    rw [hnil, List.length_nil] at hfull
    omega
  · simp [sendDone, hnil, hsent] at hnotDone

/-- GBN and SR go on: teardown when all is sent and acknowledged. -/
theorem Filling.srAdvance (h : Filling s) (hs : Sending s) (hx : s.xfer ≠ .sendSaw)
    (wasHead : Bool) : SenderInv (srAdvance wasHead s) := by
  simp only [Machine.srAdvance]
  split
  · next hdone =>
    rw [sendDone, Bool.and_eq_true, List.isEmpty_iff] at hdone
    exact h.fillWindow.beginTeardown hdone.2
  · next hnotDone =>
    have hinv := h.fillWindow_senderInv hs hx (by simpa using hnotDone)
    split
    · exact hinv.of_part_eq rfl
    · exact hinv

/-- SAW goes on: teardown when all is sent. -/
theorem Filling.sawAdvance (h : Filling s) (hs : Sending s) (hx : s.xfer = .sendSaw)
    (hbuf : s.sndBuf = []) : SenderInv (sawAdvance s) := by
  rw [Machine.sawAdvance]
  split
  · next hunsent => exact h.sendChunk_saw hs hx hbuf hunsent
  · exact h.beginTeardown hbuf

/-- A SEND starts: teardown when there is nothing to send. -/
theorem Filling.startSend {x : Xfer} (h : Filling s) (hs : Sending s) (hx : s.xfer = x)
    (hbuf : s.sndBuf = []) (hnxt : s.nxt = 0) : SenderInv (startSend x s) := by
  rw [Machine.startSend]
  split
  · exact h.beginTeardown hbuf
  · next hlen =>
    have hunsent : s.nxt < s.txLen := by
      rw [hnxt]
      exact (BitVec.pos_iff_ne_zero _).2 hlen
    split
    · next hsaw => exact h.sendChunk_saw hs (hx.trans hsaw) hbuf hunsent
    · next hnotSaw =>
      have hburst : burstCount s ≠ 0 := by
        have hchunk := (lt_chunkCount_iff h.mps s.txLen.toNat 0).2
          (by rw [Nat.zero_mul]; exact Nat.pos_of_ne_zero (BitVec.toNat_ne.1 hlen))
        have hwin := h.win
        rw [burstCount]
        omega
      have hnotDone : sendDone (Machine.fillWindow s) = false := by
        rw [fillWindow_of_cleared h.mps hnxt hbuf]
        simp [sendDone, burstAfter, hburst]
      exact (h.fillWindow_senderInv hs (by rwa [hx]) hnotDone).of_part_eq rfl

end

/-! ## Every step keeps it -/

section
variable {s t : State} {i : Instr}

theorem not_sending_of_conn {c : ConnState} (hc : s.connState = c) (hne : c ≠ .established) :
    ¬ Sending s := fun hs => hne (hc.symm.trans hs.1)

theorem not_sending_of_xfer (hx : s.xfer.isSend = false) : ¬ Sending s :=
  fun hs => absurd (hx.symm.trans hs.2) Bool.false_ne_true

/-- Between two states that run no sender the bounds alone go on. -/
theorem SenderInv.quietly (h : SenderInv s) (hs : ¬ Sending s) (ht : ¬ Sending t)
    (heq : (t.params, t.txLen, t.nxt, t.sndBuf) = (s.params, s.txLen, s.nxt, s.sndBuf)) :
    SenderInv t := by
  simp only [Prod.mk.injEq] at heq
  obtain ⟨hparams, hlen, hnxt, hbuf⟩ := heq
  exact .of_not_sending ht (hbuf.trans (h.quiet hs)) (by rw [hnxt, hlen]; exact h.nxtBound)
    (by rw [hlen, hparams]; exact h.lenBound)

/-- The sender's part of the per-transfer state is clear. -/
theorem SenderInv.of_cleared (ht : ¬ Sending t)
    (hclear : (t.txLen, t.nxt, t.sndBuf) = (0, 0, [])) : SenderInv t := by
  simp only [Prod.mk.injEq] at hclear
  obtain ⟨hlen, hnxt, hbuf⟩ := hclear
  exact .of_not_sending ht hbuf (by rw [hnxt]; exact Nat.zero_le _)
    (by rw [hlen]; exact Nat.zero_le _)

theorem CmdEffect.senderInv (he : CmdEffect s i t) (hinv : MachineInv s) : SenderInv t := by
  have h := hinv.sender
  have quiet (hidle : busy s = false) : ¬ Sending s :=
    not_sending_of_xfer (by rw [(hinv.control.of_idle hidle).1]; rfl)
  cases he with
  | answered | read | bound => exact h.of_part_eq rfl
  | configured hidle _ => exact h.quietly (quiet hidle) (quiet hidle) rfl
  | listening hidle _ _ _ => exact h.quietly (quiet hidle) (not_sending_of_conn rfl nofun) rfl
  | connecting => exact .of_cleared (not_sending_of_conn rfl nofun) rfl
  | sending hrow _ hconn _ hlen =>
    have hconfig := (hinv.control.openConn (by rw [hconn]; decide)).config
    exact (filling_sendBegun hconfig hlen).startSend ⟨hconn, isSend_of_sendRows hrow⟩ rfl rfl rfl
  | receiving hrow hidle _ _ =>
    exact h.quietly (quiet hidle) (not_sending_of_xfer (isRecv_of_recvRows hrow).2) rfl
  | closed => exact .of_cleared (not_sending_of_conn rfl nofun) rfl
  | written hidle _ => exact h.quietly (quiet hidle) (quiet hidle) rfl

/-- An acknowledged SAW entry was the only one. -/
theorem SenderInv.dropEntry_saw (h : SenderInv s) (hs : Sending s) (hx : s.xfer = .sendSaw)
    {k : Nat} (hhead : isHead k s.sndBuf = true) : (dropEntry k s).sndBuf = [] := by
  obtain ⟨c, hbuf⟩ := List.length_eq_one_iff.1 (h.sawOne hs hx)
  rw [hbuf] at hhead
  rw [dropEntry, hbuf]
  exact if_pos (beq_iff_eq.1 hhead)

theorem PktEffect.senderInv (he : PktEffect s i t) (hinv : MachineInv s) : SenderInv t := by
  have h := hinv.sender
  have idle {c : ConnState} (hc : s.connState = c) (hne : c ≠ .established ∧ c ≠ .closing) :
      s.xfer.isSend = false := by rw [hinv.control.xfer_idle (by rw [hc]; exact hne)]; rfl
  cases he with
  | ignored => exact h.of_part_eq (by simp [senderPart])
  | syn _ hc => exact h.quietly (not_sending_of_conn hc nofun) (not_sending_of_conn rfl nofun) rfl
  | accepted _ hc =>
    exact h.quietly (not_sending_of_conn hc nofun) (not_sending_of_xfer (idle hc (by decide))) rfl
  | synack _ hc =>
    rw [synackInSynSent_eq]
    exact h.quietly (not_sending_of_conn hc nofun) (not_sending_of_xfer (idle hc (by decide))) rfl
  | finack =>
    rw [finackInClosing_eq]
    exact .of_cleared (not_sending_of_conn rfl nofun) rfl
  | lingerFin => exact h.of_part_eq rfl
  | recvFin _ hrecv =>
    have hx : s.xfer.isSend = false := by
      obtain ⟨-, hx⟩ := hrecv
      revert hx
      cases s.xfer <;> decide
    rw [finInRecv_eq]
    exact h.quietly (not_sending_of_xfer hx) (not_sending_of_conn rfl nofun) rfl
  | data _ p => exact h.of_part_eq (received_dataInRecv p).parts_eq.2
  | sawAcked _ hc hx k hhead =>
    have hs : Sending s := ⟨hc, by rw [hx]; rfl⟩
    exact ((hinv.filling hs).dropEntry fun _ => hhead).sawAdvance hs hx
      (h.dropEntry_saw hs hx hhead)
  | acked _ hs hx k hhead wasHead =>
    exact ((hinv.filling hs).dropEntry hhead).srAdvance hs hx wasHead

theorem ExpiryEffect.senderInv {rest : List Event} (he : ExpiryEffect (timedOut s rest) t)
    (h : SenderInv s) : SenderInv t := by
  cases he with
  | none | listen => exact h.of_part_eq rfl
  | synReceived hc =>
    exact h.quietly (not_sending_of_conn hc nofun) (not_sending_of_conn rfl nofun) rfl
  | synSent hc =>
    rw [expireSynSent_eq]
    exact h.quietly (not_sending_of_conn hc nofun) (not_sending_of_conn rfl nofun) rfl
  | closing => rw [expireClosing_eq]; exact h.of_part_eq rfl
  | resent => rw [retransmitAll_eq]; exact h.of_part_eq rfl

end

/-- Settles O54: a removal and the chunks sent behind it keep `Filling`, and `FillWindow()` stops
only with a full window or at the end; outside a sender the bounds alone are left. -/
theorem stepKeepsSenderInvariant : Obligations.StepKeepsSenderInvariant := by
  unfold Obligations.StepKeepsSenderInvariant
  intro s t h hstep
  exact h.step hstep (fun u hu _ => hu.sender) (fun u i v hu _ he => he.senderInv hu)
    (fun u i v hu _ _ he => he.senderInv hu) (fun rest _ _ => h.sender.of_part_eq rfl)
    (fun rest v _ he => he.senderInv h.sender)

end Sys2Proof.Machine
end

section
/-! SUPPORT. The receiver's invariant (spec/10_state.md R38 to R43; spec/43_receiver.md R231 to
R243): the bounds every store and every move of `Merge()` keep, and that every step keeps them. -/

namespace Sys2Proof.Machine

/-! ## While packets are stored -/

/-- What stores and moves keep, wherever the entries of OOO stand: the capacity, EXP within the
bytes of RXBUF, and the shape of the entries. -/
structure Assembling (s : State) : Prop where
  cap : s.params.rxCap < 2 ^ 32
  bytes : rxBytes s ≤ s.params.rxCap
  expBytes : s.exp.toNat ≤ mapBytes s.rxBuf
  slots : s.ooo.length ≤ s.params.oooSlots
  stored : ∀ c ∈ s.rxBuf, c.1 < s.exp.toNat ∧ c.2 ≠ [] ∧ c.2.length ≤ s.params.mpsMax
  waiting : ∀ c ∈ s.ooo, c.1 < 2 ^ 32 ∧ c.2 ≠ [] ∧ c.2.length ≤ s.params.mpsMax

section
variable {s t : State}

theorem MachineInv.assembling (h : MachineInv s) : Assembling s := by
  obtain ⟨-, -, -, hcap, -⟩ := h.params
  have hr := h.receiver
  exact ⟨by omega, hr.bytes, hr.expBytes, hr.slots, fun c hc => hr.stored c.1 c.2 hc,
    fun c hc => (hr.buffered c.1 c.2 hc).2⟩

/-- The receiver's invariant after data: the bounds, OOO ahead of EXP, and OOO in use only under SR
with policy BUFFER. -/
theorem ReceiverInv.received (h : ReceiverInv s) (hs : Receiving s) (hr : Received s t)
    (ha : Assembling t) (hahead : ∀ c ∈ t.ooo, t.exp.toNat < c.1)
    (hooo : t.ooo ≠ [] → buffersOoo s = true) : ReceiverInv t := by
  obtain ⟨r, m, e, v, o, -, -, -⟩ := hr
  refine ⟨ha.bytes, ha.expBytes, ha.slots, fun k p hc => ha.stored (k, p) hc,
    fun k p hc => ⟨hahead (k, p) hc, ha.waiting (k, p) hc⟩, fun hne => ?_,
    fun hquiet => absurd hs hquiet, h.delivered, h.deliveredListed⟩
  simpa [buffersOoo] using hooo hne

section
variable (h : Assembling s) {p : List Byte} (hp : p ≠ []) (hlen : p.length ≤ s.params.mpsMax)
include h

/-- Fewer entries wait. -/
theorem Assembling.sub {o : OffsetMap (List Byte)} (ho : ∀ c ∈ o, c ∈ s.ooo)
    (hbytes : mapBytes o ≤ mapBytes s.ooo) (hslots : o.length ≤ s.ooo.length) :
    Assembling { s with ooo := o } := by
  refine ⟨h.cap, ?_, h.expBytes, hslots.trans h.slots, h.stored, fun c hc => h.waiting c (ho c hc)⟩
  exact (Nat.add_le_add_left hbytes _).trans h.bytes

include hp hlen

/-- Bytes stored at EXP: RXBUF and EXP grow by them. -/
theorem Assembling.storeAtExp {o : OffsetMap (List Byte)} (ho : ∀ c ∈ o, c ∈ s.ooo)
    (hslots : o.length ≤ s.ooo.length)
    (hroom : mapBytes s.rxBuf + p.length + mapBytes o ≤ s.params.rxCap) :
    Assembling { s with
      ooo := o
      rxBuf := insertKey s.exp.toNat p s.rxBuf
      exp := s.exp + BitVec.ofNat 32 p.length } := by
  have hnew : hasKey s.exp.toNat s.rxBuf = false := by
    rw [← Bool.not_eq_true, hasKey, Option.isSome_iff_exists]
    rintro ⟨q, hq⟩
    exact absurd (h.stored _ (lookupKey_mem hq)).1 (lt_irrefl _)
  have hgrown : mapBytes (insertKey s.exp.toNat p s.rxBuf) = p.length + mapBytes s.rxBuf :=
    mapBytes_insertKey hnew
  have hcap := h.cap
  have hbytes := h.expBytes
  have hexp : (s.exp + BitVec.ofNat 32 p.length).toNat = s.exp.toNat + p.length := by
    rw [BitVec.toNat_add, BitVec.toNat_ofNat]
    omega
  have hpos := List.length_pos_of_ne_nil hp
  refine ⟨h.cap, ?bytes, ?expBytes, hslots.trans h.slots, fun c hc => ?stored,
    fun c hc => h.waiting c (ho c hc)⟩
  case bytes =>
    simp only [rxBytes, hgrown]
    omega
  case expBytes =>
    simp only [hexp, hgrown]
    omega
  case stored =>
    simp only [hexp]
    obtain rfl | hold := mem_insertKey hc
    · exact ⟨by simpa using hpos, hp, hlen⟩
    · obtain ⟨hlt, hne, hle⟩ := h.stored c hold
      exact ⟨by omega, hne, hle⟩

omit hp hlen

/-- `Merge()` moves bytes from OOO to RXBUF. -/
theorem Assembling.merge : Assembling (merge s) := by
  have hmoves : Assembling (mergeRounds s.ooo.length s) := by
    refine mergeRounds_keeps _ _ (fun u q hq hu => ?_) h
    obtain ⟨-, hne, hle⟩ := hu.waiting _ (lookupKey_mem hq)
    have hmoved := mapBytes_eraseKey hq
    have hbytes := hu.bytes
    have hlength := length_eraseKey hq
    rw [rxBytes] at hbytes
    exact hu.storeAtExp (p := q) hne hle (fun c => mem_eraseKey) (by omega) (by omega)
  exact hmoves.sub (fun c => List.mem_of_mem_filter) (mapBytes_filter_le _ _)
    (List.length_filter_le _ _)

end

/-! ## Arriving packets (R231 to R239) -/

section
variable {p : Packet} (h : MachineInv s) (hs : Receiving s) (hp : p.payload ≠ [])
  (hlen : p.payload.length ≤ s.params.mpsMax)
include h hs hp hlen

theorem MachineInv.dataInOrder (hseq : p.seq = s.exp) : ReceiverInv (dataInOrder p s) := by
  cases hfits : fitsRx p s with
  | false =>
    rw [dataInOrder_of_not_fits hfits]
    exact h.receiver.of_part_eq rfl
  | true =>
    have hroom : rxBytes s + p.payload.length ≤ s.params.rxCap := of_decide_eq_true hfits
    have hstored : Assembling (storedAtExp p s) := by
      rw [storedAtExp, hseq]
      refine h.assembling.storeAtExp hp hlen (fun c hc => hc) le_rfl ?_
      rw [rxBytes] at hroom
      omega
    have hreceived : Received s (storedAtExp p s) := received_refl.store _ _ _
    rw [dataInOrder_of_fits hfits]
    refine ReceiverInv.of_part_eq (s := if buffersOoo s then merge (storedAtExp p s)
      else storedAtExp p s) ?_ rfl
    split
    · next hbuffers =>
      exact h.receiver.received hs hreceived.merge hstored.merge (merge_ahead _) fun _ => hbuffers
    · next hbuffers =>
      have hnone : s.ooo = [] := by_contra fun hne => hbuffers (h.receiver.ooo_buffers hne)
      exact h.receiver.received hs hreceived hstored
        (fun c hc => absurd (hnone ▸ hc) List.not_mem_nil) fun hne => absurd hnone hne

theorem MachineInv.dataBuffered (habove : s.exp < p.seq) (hbuffers : buffersOoo s = true) :
    ReceiverInv (dataBuffered p s) := by
  cases hkey : hasKey p.seq.toNat s.ooo with
  | true =>
    rw [dataBuffered_of_key hkey]
    exact h.receiver.of_part_eq rfl
  | false =>
    by_cases hroom : s.ooo.length < s.params.oooSlots ∧ fitsRx p s = true
    case neg =>
      rw [dataBuffered_of_no_room hkey hroom]
      exact h.receiver
    case pos =>
      obtain ⟨hslot, hfits⟩ := hroom
      have hroom : rxBytes s + p.payload.length ≤ s.params.rxCap := of_decide_eq_true hfits
      have ha := h.assembling
      rw [dataBuffered_of_room hkey hslot hfits]
      have hwaiting : Assembling { s with ooo := insertKey p.seq.toNat p.payload s.ooo } := by
        refine ⟨ha.cap, ?bytes, ha.expBytes, ?slots, ha.stored, fun c hc => ?waiting⟩
        case bytes =>
          rw [rxBytes] at hroom
          simp only [rxBytes, mapBytes_insertKey hkey]
          omega
        case slots =>
          simp only [length_insertKey hkey]
          exact hslot
        case waiting =>
          obtain rfl | hold := mem_insertKey hc
          · exact ⟨p.seq.isLt, hp, hlen⟩
          · exact ha.waiting c hold
      refine ReceiverInv.of_part_eq (h.receiver.received hs (received_refl.wait _ _) hwaiting
        (fun c hc => ?_) fun _ => hbuffers) rfl
      obtain rfl | hold := mem_insertKey hc
      · exact habove
      · exact (h.receiver.buffered c.1 c.2 hold).1

theorem MachineInv.dataDuplicate (hbelow : p.seq < s.exp) : ReceiverInv (dataDuplicate p s) := by
  cases hkey : hasKey p.seq.toNat s.rxBuf with
  | true =>
    rw [dataDuplicate_of_key hkey]
    exact h.receiver.of_part_eq rfl
  | false =>
    cases hfits : fitsRx p s with
    | false =>
      rw [dataDuplicate_of_not_fits hkey hfits]
      exact h.receiver.of_part_eq rfl
    | true =>
      have hroom : rxBytes s + p.payload.length ≤ s.params.rxCap := of_decide_eq_true hfits
      have ha := h.assembling
      rw [dataDuplicate_of_fits hkey hfits]
      have hstored : Assembling (storeRx p s) := by
        refine ⟨ha.cap, ?bytes, ?expBytes, ha.slots, fun c hc => ?stored, ha.waiting⟩
        case bytes =>
          rw [rxBytes] at hroom
          simp only [rxBytes, storeRx, mapBytes_insertKey hkey]
          omega
        case expBytes =>
          have hbytes := ha.expBytes
          simp only [storeRx, mapBytes_insertKey hkey]
          omega
        case stored =>
          obtain rfl | hold := mem_insertKey hc
          · exact ⟨hbelow, hp, hlen⟩
          · exact ha.stored c hold
      exact ReceiverInv.of_part_eq (h.receiver.received hs (received_refl.store _ _ s.exp) hstored
        (fun c hc => (h.receiver.buffered c.1 c.2 hc).1) h.receiver.ooo_buffers) rfl

/-- A data packet keeps the receiver's invariant, wherever it stands. -/
theorem MachineInv.dataInRecv : ReceiverInv (dataInRecv p s) := by
  obtain hbelow | hat | habove := seq_cases p s
  · rw [dataInRecv_of_lt hbelow]
    exact h.dataDuplicate hs hp hlen hbelow
  · rw [dataInRecv_of_eq hat]
    exact h.dataInOrder hs hp hlen hat
  · rw [dataInRecv_of_gt habove]
    split
    · next hbuffers => exact h.dataBuffered hs hp hlen habove hbuffers
    · exact h.receiver

end

end

/-! ## Every step keeps it -/

section
variable {s t : State} {i : Instr}

/-- The receiver's buffers, and DELIV. -/
def receiverBufs (s : State) := (s.params, s.exp, s.rxBuf, s.ooo, s.deliv, s.delivLen)

/-- Where no receiver runs, its buffers are clear and stay so. -/
theorem ReceiverInv.quietly (h : ReceiverInv s) (hs : ¬ Receiving s)
    (heq : receiverBufs t = receiverBufs s) : ReceiverInv t := by
  simp only [receiverBufs, Prod.mk.injEq] at heq
  obtain ⟨hparams, hexp, hrx, hooo, hdeliv, hlen⟩ := heq
  obtain ⟨hexp', hrx', hooo'⟩ := h.quiet hs
  exact .of_clear (hexp.trans hexp') (hrx.trans hrx') (hooo.trans hooo')
    (by rw [hlen, hparams]; exact h.delivered) (by rw [hlen, hdeliv]; exact h.deliveredListed)

theorem not_receiving_of_conn {c : ConnState} (hc : s.connState = c) (hne : c ≠ .established) :
    ¬ Receiving s := fun hs => hne (hc.symm.trans hs.1)

theorem not_receiving_of_xfer (hx : s.xfer.isRecv = false) : ¬ Receiving s :=
  fun hs => absurd (hx.symm.trans hs.2) Bool.false_ne_true

theorem not_receiving_of_sending (hs : Sending s) : ¬ Receiving s := by
  obtain ⟨-, hx⟩ := hs
  refine not_receiving_of_xfer ?_
  revert hx
  cases s.xfer <;> decide

theorem Chunked.bufs_eq (h : Chunked s t) : receiverBufs t = receiverBufs s := by
  cases h
  rfl

theorem SenderMove.bufs_eq (h : SenderMove s t) : receiverBufs t = receiverBufs s := by
  cases h with
  | teardown hchunked => exact hchunked.bufs_eq
  | armed hchunked => exact hchunked.bufs_eq

theorem CmdEffect.receiverInv (he : CmdEffect s i t) (hinv : MachineInv s) : ReceiverInv t := by
  have h := hinv.receiver
  have quiet (hidle : busy s = false) : ¬ Receiving s :=
    not_receiving_of_xfer (by rw [(hinv.control.of_idle hidle).1]; rfl)
  cases he with
  | answered | read | configured | bound | written => exact h.of_part_eq rfl
  | listening hidle => exact h.quietly (quiet hidle) rfl
  | connecting hidle => exact h.quietly (quiet hidle) rfl
  | sending _ hidle =>
    exact h.quietly (quiet hidle) (startSend_move _).bufs_eq
  | receiving => exact .of_clear rfl rfl rfl h.delivered h.deliveredListed
  | closed => exact .of_clear rfl rfl rfl h.delivered h.deliveredListed

/-- The delivery covers DELIV_LEN, which is within RX_CAP (R243). -/
theorem MachineInv.finInRecv (h : MachineInv s) (p : Packet) : ReceiverInv (finInRecv p s) := by
  have hbytes := (length_flatten_rxBuf_le s).trans h.receiver.bytes
  have hcap := h.assembling.cap
  have hlen : (BitVec.ofNat 32 (flatten s.rxBuf).length).toNat = (flatten s.rxBuf).length := by
    rw [BitVec.toNat_ofNat]
    omega
  rw [finInRecv_eq]
  refine .of_clear rfl rfl rfl (hlen.trans_le hbytes) fun a ha => ?_
  have ha : a < (flatten s.rxBuf).length := hlen ▸ ha
  rw [hasKey, lookupKey_writeBytes, if_pos ⟨Nat.zero_le a, by omega⟩, Nat.sub_zero,
    List.getElem?_eq_getElem ha]
  rfl

theorem PktEffect.receiverInv (he : PktEffect s i t) (hinv : MachineInv s)
    (hwf : WellFormed s.params i) : ReceiverInv t := by
  have h := hinv.receiver
  cases he with
  | ignored => exact h.of_part_eq (by simp [receiverPart])
  | syn _ hc => exact h.quietly (not_receiving_of_conn hc nofun) rfl
  | accepted _ hc => exact h.quietly (not_receiving_of_conn hc nofun) rfl
  | synack _ hc =>
    rw [synackInSynSent_eq]
    exact h.quietly (not_receiving_of_conn hc nofun) rfl
  | finack _ hc =>
    rw [finackInClosing_eq]
    exact h.quietly (not_receiving_of_conn hc nofun) rfl
  | lingerFin => exact h.of_part_eq rfl
  | recvFin p _ => exact hinv.finInRecv p
  | data _ p hi hs hp =>
    have hlen : p.payload.length ≤ s.params.mpsMax := by
      obtain rfl | rfl := hi <;> exact of_decide_eq_true hwf
    exact hinv.dataInRecv hs hp hlen
  | sawAcked _ hc hx =>
    exact h.quietly (not_receiving_of_xfer (by rw [hx]; rfl)) sawAdvance_move.bufs_eq
  | acked _ hs _ k _ wasHead =>
    refine h.quietly (not_receiving_of_sending hs) ?_
    obtain hmove | hchunked := srAdvance_move (s := dropEntry k s) wasHead
    · exact hmove.bufs_eq
    · exact hchunked.bufs_eq

theorem ExpiryEffect.receiverInv {rest : List Event} (he : ExpiryEffect (timedOut s rest) t)
    (h : ReceiverInv s) : ReceiverInv t := by
  cases he with
  | none | listen => exact h.of_part_eq rfl
  | synReceived hc => exact h.quietly (not_receiving_of_conn hc nofun) rfl
  | synSent hc =>
    rw [expireSynSent_eq]
    exact h.quietly (not_receiving_of_conn hc nofun) rfl
  | closing => rw [expireClosing_eq]; exact h.of_part_eq rfl
  | resent => rw [retransmitAll_eq]; exact h.of_part_eq rfl

end

/-- Settles O55: a data packet by `Assembling` through stores and moves, the FIN by the length of
what it delivers; outside a receiver the buffers are clear. -/
theorem stepKeepsReceiverInvariant : Obligations.StepKeepsReceiverInvariant := by
  unfold Obligations.StepKeepsReceiverInvariant
  intro s t h hstep
  exact h.step hstep (fun u hu _ => hu.receiver) (fun u i v hu _ he => he.receiverInv hu)
    (fun u i v hu _ hwf he => he.receiverInv hu hwf) (fun rest _ _ => h.receiver.of_part_eq rfl)
    (fun rest v _ he => he.receiverInv h.receiver)

end Sys2Proof.Machine
end

section
/-! SUPPORT. The transmitted packets (spec/40_codec.md R110, R118 to R126): each of the seven kinds
RTE sends is legal, and every step's records are among them. -/

namespace Sys2Proof.Machine

/-! ## The seven kinds -/

/-- What a TX record depends on. -/
def emittedPart (s : State) :=
  (s.peerAddr, s.cfgMps, s.cfgWin, s.hsNxt, s.txLen, s.txMem, s.unit, s.resets)

/-- A TX record in a step that leads to `s`: one of the seven packets, no longer than a datagram. -/
structure Sent (s : State) (r : TxRecord) : Prop where
  emitted : EmittedRecord s r
  bounded : r.bytes.length ≤ 65535

/-- All records of the TX port are such. -/
abbrev AllSent (s : State) : Prop := ∀ r ∈ s.out.tx, Sent s r

section
variable {s t : State} {r : TxRecord}

theorem Sent.of_part_eq (h : Sent s r) (heq : emittedPart t = emittedPart s) : Sent t r := by
  refine ⟨?_, h.bounded⟩
  have hemitted := h.emitted
  cases s
  cases t
  simp only [emittedPart, Prod.mk.injEq] at heq
  obtain ⟨rfl, rfl, rfl, rfl, rfl, rfl, rfl, rfl⟩ := heq
  exact hemitted

/-- A packet without payload is twelve bytes long. -/
theorem sent_of_empty {h : Header} (hbytes : r.bytes = frame h []) (hemitted : EmittedRecord s r) :
    Sent s r :=
  ⟨hemitted, by rw [hbytes, length_frame]; decide⟩

theorem sent_syn : Sent s { bytes := synPkt s, dest := s.peerAddr, cls := .hs } :=
  sent_of_empty rfl ⟨rfl, .inl ⟨rfl, .inl rfl⟩⟩

theorem sent_synack : Sent s { bytes := synackPkt s, dest := s.peerAddr, cls := .hs } :=
  sent_of_empty rfl ⟨rfl, .inl ⟨rfl, .inr (.inl rfl)⟩⟩

theorem sent_hsack : Sent s { bytes := hsackPkt s, dest := s.peerAddr, cls := .hs } :=
  sent_of_empty rfl ⟨rfl, .inl ⟨rfl, .inr (.inr rfl)⟩⟩

theorem sent_chunk {k : Nat} (hk : k < s.txLen.toNat) (hchunk : k % s.cfgMps.toNat = 0)
    (hmps : s.cfgMps.toNat ≤ 65523) : Sent s (chunkRecord s s.txLen.toNat k) where
  emitted := ⟨rfl, .inr ⟨rfl, .inl ⟨k, hk, hchunk, rfl⟩⟩⟩
  bounded := by
    simp only [chunkRecord, chunkPacket, length_frame, List.length_map, List.length_range]
    omega

theorem sent_fin : Sent s { bytes := finPkt s, dest := s.peerAddr, cls := .data } :=
  sent_of_empty rfl ⟨rfl, .inr ⟨rfl, .inr (.inl rfl)⟩⟩

theorem sent_dack (a : Word) : Sent s (dackRecord s a) :=
  sent_of_empty rfl ⟨rfl, .inr ⟨rfl, .inr (.inr (.inl ⟨a, rfl⟩))⟩⟩

theorem sent_finack (f : Word) :
    Sent s { bytes := finackPkt s f, dest := s.peerAddr, cls := .data } :=
  sent_of_empty rfl ⟨rfl, .inr ⟨rfl, .inr (.inr (.inr ⟨f, rfl⟩))⟩⟩

/-- A framed packet of a class RTE sends is a legal datagram if its payload is. -/
theorem legalDatagram_frame {mps : Nat} {h : Header} {p : List Byte} (hlen : p.length ≤ mps)
    (hp : p ≠ [] → classify h = .ack)
    (hclass : classify h ∈ [PktClass.syn, .synack, .ack, .fin, .finack]) (hrst : h.rst = false)
    (hunused : h.unused = 0) : LegalDatagram mps (frame h p) :=
  ⟨h, p, rfl, hlen, hp, hclass, hrst, hunused⟩

/-- Each of the seven is a legal datagram. -/
theorem EmittedRecord.legal (h : EmittedRecord s r) : LegalDatagram s.cfgMps.toNat r.bytes := by
  have empty {seq ack : Word} {syn ackf fin : Bool}
      (hclass : classify (sentHeader s seq ack syn ackf fin) ∈
        [PktClass.syn, .synack, .ack, .fin, .finack]) :
      LegalDatagram s.cfgMps.toNat (frame (sentHeader s seq ack syn ackf fin) []) :=
    legalDatagram_frame (Nat.zero_le _) (fun hne => absurd rfl hne) hclass rfl rfl
  obtain ⟨-, ⟨-, hsyn | hsynack | hack⟩ | ⟨-, hdata⟩⟩ := h
  · rw [hsyn]; exact empty (by simp [classify])
  · rw [hsynack]; exact empty (by simp [classify])
  · rw [hack]; exact empty (by simp [classify])
  obtain ⟨k, -, -, hchunk⟩ | hfin | ⟨a, hdack⟩ | ⟨f, hfinack⟩ := hdata
  · rw [hchunk]
    refine legalDatagram_frame ?_ (fun _ => rfl) (by simp [classify]) rfl rfl
    rw [List.length_map, List.length_range]
    exact Nat.min_le_left _ _
  · rw [hfin]; exact empty (by simp [classify])
  · rw [hdack]; exact empty (by simp [classify])
  · rw [hfinack]; exact empty (by simp [classify])

/-! ## The TX port -/

theorem allSent_of_nil (h : s.out.tx = []) : AllSent s := by
  intro r hr
  rw [h] at hr
  cases hr

/-- One record on top. -/
theorem AllSent.append (h : AllSent s) (hr : Sent s r) (hpart : emittedPart t = emittedPart s)
    (htx : t.out.tx = s.out.tx ++ [r]) : AllSent t := by
  intro x hx
  rw [htx, List.mem_append, List.mem_singleton] at hx
  obtain hold | rfl := hx
  · exact (h x hold).of_part_eq hpart
  · exact hr.of_part_eq hpart

theorem allSent_of_single (hempty : s.out.tx = []) (hr : Sent t r)
    (htx : t.out.tx = s.out.tx ++ [r]) : AllSent t := by
  intro x hx
  rw [htx, hempty, List.nil_append, List.mem_singleton] at hx
  rwa [hx]

theorem AllSent.of_part_eq (h : AllSent s) (hpart : emittedPart t = emittedPart s)
    (htx : t.out.tx = s.out.tx) : AllSent t := by
  intro x hx
  rw [htx] at hx
  exact (h x hx).of_part_eq hpart

end

/-! ## Senders -/

/-- A sender whose chunks fit datagrams, with what it has sent so far. -/
structure Emitting (s : State) : Prop where
  filling : Filling s
  mps : s.cfgMps.toNat ≤ 65523
  sent : AllSent s

section
variable {s : State}

/-- A legal configuration's chunks fit datagrams. -/
theorem LegalConfig.mps_le (h : LegalConfig s) (hP : s.params.Legal) :
    s.cfgMps.toNat ≤ 65523 := by
  obtain ⟨-, hmps, -, -, -⟩ := h
  obtain ⟨-, -, -, -, -, hmax, -⟩ := hP
  exact hmps.trans hmax

theorem MachineInv.mps_le (h : MachineInv s) (hc : s.connState ≠ .closed) :
    s.cfgMps.toNat ≤ 65523 :=
  LegalConfig.mps_le (h.control.openConn hc).config h.params

theorem MachineInv.emitting (h : MachineInv s) (hs : Sending s) (htx : s.out.tx = []) :
    Emitting s :=
  ⟨h.filling hs, h.mps_le (by rw [hs.1]; decide), allSent_of_nil htx⟩

section
variable (h : Emitting s)
include h

theorem Emitting.dropEntry {k : Nat} (hhead : s.xfer ≠ .sendSr → isHead k s.sndBuf = true) :
    Emitting (dropEntry k s) :=
  ⟨h.filling.dropEntry hhead, h.mps, h.sent.of_part_eq rfl rfl⟩

theorem Emitting.sendChunk (hroom : s.sndBuf.length < s.cfgWin.toNat) (hunsent : s.nxt < s.txLen) :
    Emitting (sendChunk s) :=
  ⟨h.filling.sendChunk hroom hunsent, h.mps,
    h.sent.append (sent_chunk hunsent (h.filling.nxt_boundary hunsent) h.mps) rfl rfl⟩

theorem Emitting.fillWindow : Emitting (fillWindow s) :=
  fillRounds_keeps _ _ (fun _ hroom hunsent hu => hu.sendChunk hroom hunsent) h

theorem Emitting.beginTeardown : AllSent (beginTeardown s) :=
  h.sent.append sent_fin rfl rfl

theorem Emitting.arm : AllSent (arm s) := h.sent.of_part_eq rfl rfl

/-- Behind an empty SNDBUF the window has room for a chunk. -/
theorem Emitting.sendChunk_first (hbuf : s.sndBuf = []) (hunsent : s.nxt < s.txLen) :
    AllSent (Machine.arm (Machine.sendChunk s)) := by
  have hroom : s.sndBuf.length < s.cfgWin.toNat := by
    rw [hbuf]
    exact h.filling.win
  exact (h.sendChunk hroom hunsent).arm

theorem Emitting.sawAdvance (hbuf : s.sndBuf = []) : AllSent (sawAdvance s) := by
  rw [Machine.sawAdvance]
  split
  · next hunsent => exact h.sendChunk_first hbuf hunsent
  · exact h.beginTeardown

theorem Emitting.srAdvance (wasHead : Bool) : AllSent (srAdvance wasHead s) := by
  simp only [Machine.srAdvance]
  split
  · exact h.fillWindow.beginTeardown
  · split
    · exact h.fillWindow.arm
    · exact h.fillWindow.sent

theorem Emitting.startSend (x : Xfer) (hbuf : s.sndBuf = []) (hnxt : s.nxt = 0) :
    AllSent (startSend x s) := by
  rw [Machine.startSend]
  split
  · exact h.beginTeardown
  · next hlen =>
    split
    · refine h.sendChunk_first hbuf ?_
      rw [hnxt]
      exact (BitVec.pos_iff_ne_zero _).2 hlen
    · exact h.fillWindow.arm

end

end

/-! ## Every step's records -/

section
variable {s t : State} {i : Instr}

theorem CmdEffect.allSent (he : CmdEffect s i t) (hinv : MachineInv s) (htx : s.out.tx = []) :
    AllSent t := by
  cases he with
  | answered | read | configured | bound | listening | receiving | closed | written =>
    exact allSent_of_nil htx
  | connecting => exact allSent_of_single htx sent_syn rfl
  | @sending _ x _ _ hconn _ hlen =>
    have hconfig := (hinv.control.openConn (by rw [hconn]; decide)).config
    have hemitting : Emitting (sendBegun x s) :=
      ⟨filling_sendBegun hconfig hlen, hconfig.mps_le hinv.params, allSent_of_nil htx⟩
    exact hemitting.startSend x rfl rfl

/-- A receiver adds acknowledgements alone. -/
theorem Received.allSent (h : Received s t) (hs : AllSent s) : AllSent t := by
  obtain ⟨r, m, e, v, o, -, -, hacks⟩ := h
  intro x hx
  obtain hold | ⟨a, rfl⟩ := hacks x hx
  · exact (hs x hold).of_part_eq rfl
  · exact (sent_dack (s := s) a).of_part_eq rfl

theorem PktEffect.allSent (he : PktEffect s i t) (hinv : MachineInv s) (htx : s.out.tx = []) :
    AllSent t := by
  cases he with
  | ignored => exact allSent_of_nil (by simpa using htx)
  | accepted => exact allSent_of_nil htx
  | syn => exact allSent_of_single htx sent_synack rfl
  | synack =>
    rw [synackInSynSent_eq]
    exact allSent_of_single htx sent_hsack rfl
  | finack =>
    rw [finackInClosing_eq]
    exact allSent_of_nil htx
  | lingerFin p => exact allSent_of_single htx (sent_finack p.seq) rfl
  | recvFin p =>
    rw [finInRecv_eq]
    exact allSent_of_single htx (sent_finack p.seq) rfl
  | data _ p => exact (received_dataInRecv p).allSent (allSent_of_nil htx)
  | sawAcked _ hc hx k hhead =>
    have hs : Sending s := ⟨hc, by rw [hx]; rfl⟩
    exact ((hinv.emitting hs htx).dropEntry fun _ => hhead).sawAdvance
      (hinv.sender.dropEntry_saw hs hx hhead)
  | acked _ hs _ k hhead wasHead => exact ((hinv.emitting hs htx).dropEntry hhead).srAdvance wasHead

/-- A stored datagram is still the chunk's. -/
theorem MachineInv.sent_entry (h : MachineInv s) (hs : Sending s) {c : Nat × SndEntry}
    (hc : c ∈ s.sndBuf) : Sent s { bytes := c.2.dg, dest := s.peerAddr, cls := .data } := by
  obtain ⟨hchunk, hbelow, -, hdg⟩ := h.sender.entries hs c.1 c.2 hc
  rw [hdg]
  exact sent_chunk (hbelow.trans_le h.sender.nxtBound) hchunk (h.mps_le (by rw [hs.1]; decide))

theorem ExpiryEffect.allSent {rest : List Event} (he : ExpiryEffect (timedOut s rest) t)
    (hinv : MachineInv s) : AllSent t := by
  cases he with
  | none | listen | synReceived => exact allSent_of_nil rfl
  | synSent =>
    rw [expireSynSent_eq]
    exact allSent_of_nil rfl
  | closing =>
    rw [expireClosing_eq]
    exact allSent_of_single (s := timedOut s rest) rfl sent_fin rfl
  | resent hs l hsub =>
    rw [retransmitAll_eq]
    intro r hr
    obtain ⟨c, hc, rfl⟩ := List.mem_map.1 (show r ∈ l.map _ from hr)
    exact (hinv.sent_entry hs (hsub c hc)).of_part_eq rfl

end

/-- Settles O57: by what each event can do; a chunk is sent at a boundary below TX_LEN (`Filling`),
and a resent datagram is SNDBUF's, which R207 ties to its chunk. -/
theorem emittedDatagramsAreLegal : Obligations.EmittedDatagramsAreLegal := by
  unfold Obligations.EmittedDatagramsAreLegal
  intro s t h hstep
  have hsent : AllSent t :=
    h.step hstep (fun u _ htx => allSent_of_nil htx) (fun u i v hu htx he => he.allSent hu htx)
      (fun u i v hu htx _ he => he.allSent hu htx) (fun rest _ _ => allSent_of_nil rfl)
      (fun rest v _ he => he.allSent h)
  exact fun r hr => ⟨(hsent r hr).emitted, (hsent r hr).emitted.legal, (hsent r hr).bounded⟩

end Sys2Proof.Machine
end

section
/-! SUPPORT. The whole machine's write frames (spec/10_state.md R24, R26, R43; spec/20_memory.md
R68; spec/41_lifecycle.md R145): what commands may write, and what every other event keeps. -/

namespace Sys2Proof.Machine

/-! ## What BUSY locks, and what a completion may write -/

/-- TXMEM, with what its unwritten bytes depend on, and the configuration. -/
def lockedPart (s : State) :=
  (s.txMem, s.unit, s.resets, s.cfgMps, s.cfgWin, s.cfgRto, s.cfgValid, s.cfgLossP, s.cfgLossMax,
    s.cfgVerbose)

/-- DELIV and DELIV_LEN. -/
def deliveredPart (s : State) := (s.deliv, s.delivLen)

/-- Everything the three frames speak of. -/
def framedPart (s : State) := (s.params, lockedPart s, deliveredPart s, s.result, s.code)

/-- What a step that brings no command and no RESET keeps: DELIV changes with a receiver's
completion alone, CODE with a reported one. -/
structure Kept (s t : State) : Prop where
  params : t.params = s.params
  locked : lockedPart t = lockedPart s
  delivered : deliveredPart t = deliveredPart s ∨ Receiving s ∧ t.linger = true
  result : t.result = s.result
  code : t.code = s.code ∨ HookRecord.done t.code ∈ t.out.hooks

/-- What a step that brings the command word `w` keeps. -/
structure Commanded (w : Word) (s t : State) : Prop where
  params : t.params = s.params
  locked : busy s = true → lockedPart t = lockedPart s
  delivered : deliveredPart t = deliveredPart s
  result : cmdOpc w ≠ 0x09 → t.result = s.result

section
variable {s t u : State} {i : Instr}

theorem kept_of_part_eq (heq : framedPart t = framedPart s) : Kept s t := by
  simp only [framedPart, Prod.mk.injEq] at heq
  obtain ⟨hparams, hlocked, hdelivered, hresult, hcode⟩ := heq
  exact ⟨hparams, hlocked, .inl hdelivered, hresult, .inl hcode⟩

/-- Taking the event changes none of it. -/
theorem Kept.of_started (h : Kept u t) (heq : framedPart u = framedPart s)
    (hrecv : Receiving u → Receiving s) : Kept s t := by
  simp only [framedPart, Prod.mk.injEq] at heq
  obtain ⟨hparams, hlocked, hdelivered, hresult, hcode⟩ := heq
  refine ⟨h.params.trans hparams, h.locked.trans hlocked, ?_, h.result.trans hresult, ?_⟩
  · exact h.delivered.imp (fun hd => hd.trans hdelivered) (And.imp_left hrecv)
  · exact h.code.imp_left fun hc => hc.trans hcode

theorem Chunked.framed_eq (h : Chunked s u) : framedPart u = framedPart s := by
  cases h
  rfl

theorem SenderMove.framed_eq (h : SenderMove s t) : framedPart t = framedPart s := by
  cases h with
  | teardown hchunked => exact hchunked.framed_eq
  | armed hchunked => exact hchunked.framed_eq

theorem Received.framed_eq (h : Received s u) : framedPart u = framedPart s := by
  cases h
  rfl

/-! ## Event by event -/

/-- A completion reports its code on the hook port (R10). -/
theorem done_mem_hooks (c : ResultCode) (l : List HookRecord) :
    HookRecord.done c ∈ l ++ [HookRecord.done c] :=
  List.mem_append_right l (List.mem_singleton.2 rfl)

theorem PktEffect.kept (he : PktEffect s i t) : Kept s t := by
  cases he with
  | ignored => exact kept_of_part_eq (by simp [framedPart, lockedPart, deliveredPart])
  | syn | lingerFin => exact kept_of_part_eq rfl
  | accepted => exact ⟨rfl, rfl, .inl rfl, rfl, .inr (done_mem_hooks _ _)⟩
  | synack =>
    rw [synackInSynSent_eq]
    exact ⟨rfl, rfl, .inl rfl, rfl, .inr (done_mem_hooks _ _)⟩
  | finack =>
    rw [finackInClosing_eq]
    exact ⟨rfl, rfl, .inl rfl, rfl, .inr (done_mem_hooks _ _)⟩
  | recvFin _ hrecv =>
    rw [finInRecv_eq]
    exact ⟨rfl, rfl, .inr ⟨hrecv, rfl⟩, rfl, .inr (done_mem_hooks _ _)⟩
  | data _ p => exact kept_of_part_eq (received_dataInRecv p).framed_eq
  | sawAcked _ _ _ k =>
    exact kept_of_part_eq (sawAdvance_move (s := dropEntry k s)).framed_eq
  | acked _ _ _ k _ wasHead =>
    obtain hmove | hchunked := srAdvance_move (s := dropEntry k s) wasHead
    · exact kept_of_part_eq hmove.framed_eq
    · exact kept_of_part_eq hchunked.framed_eq

theorem ExpiryEffect.kept (he : ExpiryEffect s t) : Kept s t := by
  cases he with
  | none | listen | synReceived => exact kept_of_part_eq rfl
  | synSent =>
    rw [expireSynSent_eq]
    exact ⟨rfl, rfl, .inl rfl, rfl, .inr (done_mem_hooks _ _)⟩
  | closing =>
    rw [expireClosing_eq]
    exact kept_of_part_eq rfl
  | resent =>
    rw [retransmitAll_eq]
    exact kept_of_part_eq rfl

/-- RDRX's word in the command table has RDRX's opcode. -/
theorem cmdOpc_of_rdrx {w : Word} (h : (w, .rdrx) ∈ commandTable) : cmdOpc w = 0x09 := by
  have hrows : ∀ r ∈ commandTable, r.2 = .rdrx → cmdOpc r.1 = 0x09 := by decide
  exact hrows _ h rfl

/-- A command that writes CODE alone of what the frames speak of. -/
theorem commanded_of_part_eq {w : Word} {c : ResultCode}
    (heq : framedPart t = framedPart { s with code := c }) : Commanded w s t := by
  simp only [framedPart, Prod.mk.injEq] at heq
  obtain ⟨hparams, hlocked, hdelivered, hresult, -⟩ := heq
  exact ⟨hparams, fun _ => hlocked, hdelivered, fun _ => hresult⟩

/-- Only CONFIGURE and WRTX write what BUSY locks, and BUSY refuses both; only RDRX writes RESULT.
-/
theorem CmdEffect.commanded {w : Word} (he : CmdEffect s i t) (hw : (w, i) ∈ commandTable) :
    Commanded w s t := by
  cases he with
  | answered | bound | listening | connecting | receiving | closed =>
    exact ⟨rfl, fun _ => rfl, rfl, fun _ => rfl⟩
  | read =>
    exact ⟨rfl, fun _ => rfl, rfl, fun hother => absurd (cmdOpc_of_rdrx hw) hother⟩
  | configured hidle | written hidle =>
    exact ⟨rfl, fun hbusy => absurd (hidle.symm.trans hbusy) Bool.false_ne_true, rfl, fun _ => rfl⟩
  | sending => exact commanded_of_part_eq (c := .ok) ((startSend_move _).framed_eq.trans rfl)

/-- A step brings a command word, or RESET, or keeps all three frames. -/
theorem StepEffect.frames (he : StepEffect s t) :
    (∃ w ans rest, s.inputs = .hostWrite 0 w ans :: rest ∧ Commanded w s t) ∨
      (∃ rest, s.inputs = .reset :: rest ∧ t.params = s.params) ∨ Kept s t := by
  cases he with
  | @command w ans rest _ _ hin hw heffect =>
    obtain ⟨hparams, hlocked, hdelivered, hresult⟩ := heffect.commanded hw
    exact .inl ⟨w, ans, rest, hin, hparams, hlocked, hdelivered, hresult⟩
  | @illegal w ans rest hin c v hresult =>
    exact .inl ⟨w, ans, rest, hin, rfl, fun _ => rfl, rfl, hresult⟩
  | @reset rest hin => exact .inr (.inl ⟨rest, hin, rfl⟩)
  | packet _ _ heffect => exact .inr (.inr (heffect.kept.of_started rfl id))
  | expired _ _ heffect => exact .inr (.inr (heffect.kept.of_started rfl id))
  | dropped =>
    exact .inr (.inr (kept_of_part_eq (by
      simp [framedPart, lockedPart, deliveredPart, droppedState])))
  | idle | argument | read | passed | counted => exact .inr (.inr (kept_of_part_eq rfl))

end

/-! ## The three frames -/

/-- Settles O58: of the events that are neither a CMD write nor RESET, only completions write CODE,
and `Finish` reports it. -/
theorem codeIsWrittenOnlyWhereR26Says : Obligations.CodeIsWrittenOnlyWhereR26Says := by
  unfold Obligations.CodeIsWrittenOnlyWhereR26Says
  intro s t e rest hin hstep hchanged
  obtain ⟨w, ans, _, hcmd, -⟩ | ⟨_, hreset, -⟩ | hkept := (stepEffect_of_step hstep).frames
  · rw [hin, List.cons.injEq] at hcmd
    exact .inl ⟨w, ans, hcmd.1⟩
  · rw [hin, List.cons.injEq] at hreset
    exact .inr (.inr hreset.1)
  · exact .inr (.inl (hkept.code.resolve_left hchanged))

/-- Settles O59: BUSY refuses CONFIGURE and WRTX, and nothing else writes TXMEM or the
configuration. -/
theorem busyLocksTxmemAndConfiguration : Obligations.BusyLocksTxmemAndConfiguration := by
  unfold Obligations.BusyLocksTxmemAndConfiguration
  intro s t hbusy hnoReset hstep
  have hlocked : lockedPart t = lockedPart s := by
    obtain ⟨_, _, _, -, hcommanded⟩ | ⟨_, hreset, -⟩ | hkept := (stepEffect_of_step hstep).frames
    · exact hcommanded.locked hbusy
    · exact absurd (by rw [hreset]; rfl) hnoReset
    · exact hkept.locked
  simp only [lockedPart, Prod.mk.injEq] at hlocked
  obtain ⟨hmem, hunit, hresets, hconfig⟩ := hlocked
  exact ⟨hmem, txByte_of_eq hmem hresets hunit, hconfig⟩

/-- Settles O60: a receiver's completion sets LINGER, RDRX's word is the one that writes RESULT, and
RESET keeps the parameters. -/
theorem parametersDelivAndResultFrames : Obligations.ParametersDelivAndResultFrames := by
  unfold Obligations.ParametersDelivAndResultFrames
  intro s t hstep
  obtain ⟨w, ans, _, hcmd, hkept⟩ | ⟨_, hreset, hparams⟩ | hkept :=
    (stepEffect_of_step hstep).frames
  · exact ⟨hkept.params, fun _ _ => Prod.ext_iff.1 hkept.delivered,
      fun hother _ => hkept.result (hother w ans (by rw [hcmd]; rfl))⟩
  · have hhead : s.inputs.head? = some .reset := by rw [hreset]; rfl
    exact ⟨hparams, fun _ hnot => absurd hhead hnot, fun _ hnot => absurd hhead hnot⟩
  · exact ⟨hkept.params, fun hnot _ => Prod.ext_iff.1 (hkept.delivered.resolve_right hnot),
      fun _ _ => hkept.result⟩

end Sys2Proof.Machine
end
